-- ==== Sys2Proof/Word.lean ====
section
/-! DEFINITION. Characters and strings of B32C (spec/00_scope.md R9): a character is one cell of CW = 8 bits, a string is a
finite sequence of characters, index 0 the leftmost. Numbers are Lean's natural numbers: "there is no signed value anywhere in
B32C" and all arithmetic is exact (R9). -/

namespace Sys2Proof

/-- A character: one cell of CW = 8 bits (R9). -/
abbrev Chr := BitVec 8

/-- A string: a finite sequence of characters, the leftmost first (R9). -/
abbrev Str := List Chr

/-- The cell that holds a character of the spec's text, by its ASCII code (R9, `93_implementation_defined.md` G3). -/
def chr (c : Char) : Chr := BitVec.ofNat 8 c.toNat

/-- The string that the spec writes between quotation marks (R9). -/
def str (s : String) : Str := s.toList.map chr

end Sys2Proof
end

