-- ==== Sys2Proof/Syntax.lean ====
section
/-! DEFINITION. The five commands, the fields of a command word, the outcomes of a command, and the actions of the host. -/

namespace Sys2Proof

/-- The five commands (spec/30_encoding.md R45), one constructor per row of spec/opcode_table.json, with the option bits each
recognises (R48, R49, R51). Every combination is one of the 16 valid command words (R53). -/
inductive Instr where
  /-- ENC: encode NUM (R77); C is `checksum`, L is `length` present, S is `split` present. -/
  | enc (c l s : Bool)
  /-- DEC: decode the input string (R81, R82). -/
  | dec (c : Bool)
  /-- DECX: decode, raising a fault on malformed input (R84). -/
  | decx (c : Bool)
  /-- NORM: canonical rendering of the input string (R87, R88). -/
  | norm (c : Bool)
  /-- VALID: validity of the input string (R90). -/
  | valid (c : Bool)
deriving DecidableEq, Repr

/-- The fields of format CW8 (R46), any values. -/
structure CmdFields where
  /-- RSV, bits 7:6. -/
  rsv : BitVec 2
  /-- S, bit 5: `split` present. -/
  s : Bool
  /-- L, bit 4: `length` present. -/
  l : Bool
  /-- C, bit 3: `checksum` true. -/
  c : Bool
  /-- OP, bits 2:0. -/
  op : BitVec 3
deriving DecidableEq, Repr

/-- The names by which the decoder rejects a command word (R50 to R53). -/
inductive DecodeError where
  /-- OP encodes no command (R52). -/
  | illegalCmd
  /-- An option bit the command does not recognise (R50, R51). -/
  | invalidOption
deriving DecidableEq, Repr

/-- The three faults a command can raise (spec/60_exceptions.md R92, R93). They are command outcomes that STATUS reports;
they do not stop the machine (R98, R102). -/
inductive CmdFault where
  /-- Raised by DECX where DEC ends with NO_RESULT (R96). -/
  | malformedInput
  /-- Raised for an unrecognised option or an option value outside its domain (R97). -/
  | invalidOption
  /-- Raised for a word whose OP encodes no command (R99). -/
  | illegalCmd
deriving DecidableEq, Repr

/-- What STATUS can hold (spec/10_state.md R18). Codes 5 to 7 are never written, so they have no constructor (U7). -/
inductive Status where
  /-- Code 0: the command produced its result (R94). -/
  | ok
  /-- Code 1: DEC found the input malformed; not a fault (R95). -/
  | noResult
  /-- Code 2 (R96). -/
  | malformedInput
  /-- Code 3 (R97). -/
  | invalidOption
  /-- Code 4 (R99). -/
  | illegalCmd
deriving DecidableEq, Repr

/-- The whole outcome of a command as one value: "the sum type `Str(s) | Num(n) | Bool(b) | NoResult | Fault(kind)`" (R20). -/
inductive Result where
  /-- ENC or NORM ended with OK. -/
  | str (t : Str)
  /-- DEC or DECX ended with OK. -/
  | num (n : Nat)
  /-- VALID ended with OK. -/
  | flag (b : Bool)
  /-- DEC ended with NO_RESULT. -/
  | noResult
  /-- The command raised a fault. -/
  | fault (k : CmdFault)
deriving DecidableEq, Repr

/-- The operands a command can read (R13, R29). -/
inductive Operand where
  | num
  | len
  | spl
  | ilen
  /-- Some cell of IBUF below ILEN. -/
  | ibuf
deriving DecidableEq, Repr

/-- The registers a host read can name (R13, R17, R55). -/
inductive HostReg where
  | status
  | val
  | flg
  | olen
  /-- CMD is write-only; a host read of it is not defined (R17). -/
  | cmd
deriving DecidableEq, Repr

/-- One action at the host interface (R17, R41, R55, R106). Numbers are natural numbers, so a negative one cannot be written
(U1). -/
inductive HostAction where
  /-- `WR NUM, n`. -/
  | wrNum (n : Nat)
  /-- `WR LEN, n`. -/
  | wrLen (n : Nat)
  /-- `WR SPL, n`. -/
  | wrSpl (n : Nat)
  /-- Write ILEN (R23). -/
  | wrIlen (n : Nat)
  /-- Write character c to cell i of IBUF (R23, R31). -/
  | wrCell (i : Nat) (c : Chr)
  /-- `WRS "text"`: the string to IBUF cell by cell from index 0, and its length to ILEN (R55). -/
  | wrs (t : Str)
  /-- Write a word to CMD; the write executes the command the word encodes (R17). -/
  | wrCmd (w : BitVec 8)
  /-- `RD STATUS`, `RD VAL`, `RD FLG`, and the reads of OLEN and CMD. -/
  | rd (r : HostReg)
  /-- Read cell i of OBUF (R31). -/
  | rdCell (i : Nat)
  /-- `RDS`: read OLEN and OBUF[0..OLEN) as a string (R55). -/
  | rds
  /-- The reset event, which falls between commands (R106). -/
  | reset
deriving DecidableEq, Repr

/-- What a host read returns. -/
inductive HostDatum where
  | status (x : Status)
  | num (n : Nat)
  | bit (b : Bool)
  | chr (c : Chr)
  | str (t : Str)
deriving DecidableEq, Repr

end Sys2Proof
end

