-- ==== Sys2Proof/Decode.lean ====
section
/-! DEFINITION. The decoder of command words (spec/30_encoding.md R46 to R53), total on the 256 words and rejecting by name,
and the encoder, written from the same encoding table. -/

namespace Sys2Proof

/-- The fields of a command word (R46). -/
def CmdFields.ofWord (w : BitVec 8) : CmdFields where
  rsv := w.extractLsb' 6 2
  s := w.getLsbD 5
  l := w.getLsbD 4
  c := w.getLsbD 3
  op := w.extractLsb' 0 3

/-- The command word of the fields, most significant bit first `RSV S L C OP` (R46). -/
def CmdFields.toWord (f : CmdFields) : BitVec 8 :=
  f.rsv ++ BitVec.ofBool f.s ++ BitVec.ofBool f.l ++ BitVec.ofBool f.c ++ f.op

/-- The command that OP selects, with the option bits it recognises (R47), for an OP below 5. -/
def selectOp (f : CmdFields) : Instr :=
  match f.op.toNat with
  | 0 => .enc f.c f.l f.s
  | 1 => .dec f.c
  | 2 => .decx f.c
  | 3 => .norm f.c
  | _ => .valid f.c

/-- The decoding procedure of R53, its three checks in their order. -/
def decodeFields (f : CmdFields) : Except DecodeError Instr :=
  if 5 ≤ f.op.toNat then .error .illegalCmd
  else if f.rsv ≠ 0#2 then .error .invalidOption
  else if f.op ≠ 0#3 ∧ (f.l = true ∨ f.s = true) then .error .invalidOption
  else .ok (selectOp f)

/-- Decoding a word written to CMD (R53). -/
def decodeCmd (w : BitVec 8) : Except DecodeError Instr := decodeFields (CmdFields.ofWord w)

/-- The fields of a command's word (R46, R47), the reserved bits zero (R50) and the options it does not recognise absent (R51). -/
def encodeFields : Instr → CmdFields
  | .enc c l s => { rsv := 0#2, s := s, l := l, c := c, op := 0#3 }
  | .dec c => { rsv := 0#2, s := false, l := false, c := c, op := 1#3 }
  | .decx c => { rsv := 0#2, s := false, l := false, c := c, op := 2#3 }
  | .norm c => { rsv := 0#2, s := false, l := false, c := c, op := 3#3 }
  | .valid c => { rsv := 0#2, s := false, l := false, c := c, op := 4#3 }

/-- The command word of a command (R46, R47). -/
def encode (i : Instr) : BitVec 8 := (encodeFields i).toWord

/-- The `match` and the `mask` of a command's row of spec/opcode_table.json, as R53 writes them out. -/
def rowPattern : Instr → BitVec 8 × BitVec 8
  | .enc _ _ _ => (0x00#8, 0xC7#8)
  | .dec _ => (0x01#8, 0xF7#8)
  | .decx _ => (0x02#8, 0xF7#8)
  | .norm _ => (0x03#8, 0xF7#8)
  | .valid _ => (0x04#8, 0xF7#8)

/-- The instruction the decoder reads from a table word: a command is one 8-bit word (R46), so a number with a bit above bit 7
is no command word. -/
def decodeTableWord (nbits w : Nat) : Option Instr :=
  if nbits ≤ 8 ∧ w < 2 ^ nbits then
    match decodeCmd (BitVec.ofNat 8 w) with
    | .ok i => some i
    | .error _ => none
  else none

end Sys2Proof
end

