-- ==== Sys2Proof/Config.lean ====
section
/-! DEFINITION. The parameters of spec/00_scope.md R7. A `Config` is fixed for the whole run and no step changes it (R108).
The values this hardware takes are `Sys2Proof.Machine.b32c`, in Sys2Proof/Machine/Tables.lean. -/

namespace Sys2Proof

/-- The parameters a model takes as an argument (R7). -/
structure Config where
  /-- ALPHA: the main symbols in value order 0 to 31 (R57). -/
  alpha : Str
  /-- CHKSYM: the checksum-only symbols in value order 32 to 36 (R57). -/
  chksym : Str
  /-- W, the width of a number in bits; `none` is the normative reading "unbounded" (R7, D5). -/
  width : Option Nat
  /-- LMAX, the capacity of a string buffer in characters; `none` is the normative reading "unbounded" (R7, D6). -/
  lmax : Option Nat
  /-- DECX_FORWARDS_CHECKSUM: whether DECX honours the checksum option (R7, R84). -/
  decxForwardsChecksum : Bool
deriving DecidableEq, Repr

/-- RADIX_BITS: bits per symbol (R7). -/
def radixBits : Nat := 5

/-- RADIX: values per symbol (R7). -/
def radix : Nat := 32

/-- CHK_MOD: the checksum modulus (R7). -/
def chkMod : Nat := 37

/-- N_CHK: the number of checksum-only symbols (R7). -/
def nChk : Nat := 5

/-- HYPHEN: the separator, code 0x2D (R7, R66). -/
def hyphen : Chr := 0x2D#8

/-- INVALID_MARK: the invalid marker `?`, code 0x3F (R7, R59). -/
def invalidMark : Chr := 0x3F#8

end Sys2Proof
end

