-- ==== Sys2Proof/Machine/Tables.lean ====
section
/-! DEFINITION. The lookup tables ENC_LUT and DEC_LUT (spec/40_datapath_units.md R57 to R63) as functions of the parameters,
the case fold of R65, and the parameter values of this hardware (R7, R59). The tables are constants (R25, R108). -/

namespace Sys2Proof.Machine

/-- ALPHA: the default main alphabet (R59; [from general knowledge, not in source] there, log entry 9). -/
def alphaDefault : Str :=
  [0x30#8, 0x31#8, 0x32#8, 0x33#8, 0x34#8, 0x35#8, 0x36#8, 0x37#8] ++
  [0x38#8, 0x39#8, 0x41#8, 0x42#8, 0x43#8, 0x44#8, 0x45#8, 0x46#8] ++
  [0x47#8, 0x48#8, 0x4A#8, 0x4B#8, 0x4D#8, 0x4E#8, 0x50#8, 0x51#8] ++
  [0x52#8, 0x53#8, 0x54#8, 0x56#8, 0x57#8, 0x58#8, 0x59#8, 0x5A#8]

/-- CHKSYM: the default checksum-only symbols (R59; [from general knowledge, not in source] there, log entry 9). -/
def chksymDefault : Str := [0x2A#8, 0x7E#8, 0x24#8, 0x3D#8, 0x55#8]

/-- The parameter values of this hardware (R7): the default tables, W and LMAX unbounded, DECX honours the checksum option. -/
def b32c : Config where
  alpha := alphaDefault
  chksym := chksymDefault
  width := none
  lmax := none
  decxForwardsChecksum := true

/-- `up(c)` (R65): `a` to `z` (0x61 to 0x7A) to the letter 0x20 below, every other code to itself. -/
def up (c : Chr) : Chr := if 0x61 ≤ c.toNat ∧ c.toNat ≤ 0x7A then c - 0x20#8 else c

/-- `ALPHA[v]` for v from 0 to 31 (R57). No command reads it at another v; there the value is the invalid marker (log entry 18). -/
def alphaSym (cfg : Config) (v : Nat) : Chr := cfg.alpha.getD v invalidMark

/-- ZERO_SYM: the zero-value symbol, ALPHA[0] (R7). -/
def zeroSym (cfg : Config) : Chr := alphaSym cfg 0

/-- `COMB[v]` for v from 0 to 36 (R57): ALPHA[v] up to 31, CHKSYM[v-32] above. -/
def comb (cfg : Config) (v : Nat) : Chr :=
  if v < radix then alphaSym cfg v else cfg.chksym.getD (v - radix) invalidMark

/-- The synonyms, accepted on input only: I and L as 1, O as 0 (R60). -/
def synonym (c : Chr) : Option Nat :=
  if c = 0x49#8 ∨ c = 0x4C#8 then some 1 else if c = 0x4F#8 then some 0 else none

/-- DECM, the main decode table (R60): the symbols of ALPHA and the three synonyms; every other character is a miss. -/
def decm (cfg : Config) (c : Chr) : Option Nat :=
  match synonym c with
  | some v => some v
  | none => cfg.alpha.idxOf? c

/-- DECC, the combined decode table (R61): every key of DECM with its value, and CHKSYM[j] with value 32 + j. -/
def decc (cfg : Config) (c : Chr) : Option Nat :=
  match decm cfg c with
  | some v => some v
  | none => (cfg.chksym.idxOf? c).map fun j => radix + j

/-- The contents of an entry of the ROM form of DEC_LUT (R63): main hit, combined hit, 6-bit value. -/
structure RomEntry where
  hm : Bool
  hc : Bool
  val : BitVec 6
deriving DecidableEq, Repr

/-- The entries of R63 that hit both tables, as (code, value). -/
def romMain : List (Chr × BitVec 6) :=
  [(0x30#8, 0#6), (0x31#8, 1#6), (0x32#8, 2#6), (0x33#8, 3#6), (0x34#8, 4#6), (0x35#8, 5#6), (0x36#8, 6#6)] ++
  [(0x37#8, 7#6), (0x38#8, 8#6), (0x39#8, 9#6), (0x41#8, 10#6), (0x42#8, 11#6), (0x43#8, 12#6), (0x44#8, 13#6)] ++
  [(0x45#8, 14#6), (0x46#8, 15#6), (0x47#8, 16#6), (0x48#8, 17#6), (0x49#8, 1#6), (0x4A#8, 18#6), (0x4B#8, 19#6)] ++
  [(0x4C#8, 1#6), (0x4D#8, 20#6), (0x4E#8, 21#6), (0x4F#8, 0#6), (0x50#8, 22#6), (0x51#8, 23#6), (0x52#8, 24#6)] ++
  [(0x53#8, 25#6), (0x54#8, 26#6), (0x56#8, 27#6), (0x57#8, 28#6), (0x58#8, 29#6), (0x59#8, 30#6), (0x5A#8, 31#6)]

/-- The entries of R63 that hit the combined table only, as (code, value). -/
def romChecksumOnly : List (Chr × BitVec 6) :=
  [(0x24#8, 34#6), (0x2A#8, 32#6), (0x3D#8, 35#6), (0x55#8, 36#6), (0x7E#8, 33#6)]

/-- One hardware form of DEC_LUT with the default parameters: the 256-entry ROM of R63 (informative there, D32). -/
def romEntry (c : Chr) : RomEntry :=
  match romMain.lookup c, romChecksumOnly.lookup c with
  | some v, _ => ⟨true, true, v⟩
  | none, some v => ⟨false, true, v⟩
  | none, none => ⟨false, false, 0#6⟩

end Sys2Proof.Machine
end

