-- ==== Sys2Proof/Machine/Datapath.lean ====
section
/-! DEFINITION. The datapath units CLEAN, PART5, ASM5, MOD37, PAD and HYPH (spec/40_datapath_units.md R64 to R76), each as the
normative function, and the iterative forms of PART5, MOD37 and HYPH that the spec derives from them (D32). -/

namespace Sys2Proof.Machine

/-- CLEAN (R64): delete every hyphen, upper-case every other character, keep the order. -/
def clean (s : Str) : Str := (s.filter fun c => c != hyphen).map up

/-- The number of 5-bit groups of n: "k = ceil(bitlength(n)/5)", and 1 for n = 0 (R67). -/
def groupCount (n : Nat) : Nat := Nat.log2 n / radixBits + 1

/-- PART5 (R67): the 5-bit groups of n, most significant first. -/
def part5 (n : Nat) : List Nat :=
  (List.range (groupCount n)).map fun i => (n / radix ^ (groupCount n - 1 - i)) % radix

/-- The loop of R68 over the shift register SR and the group stack G, at most `fuel` times. -/
def part5Loop : Nat → Nat → List Nat → List Nat
  | 0, _, g => g
  | fuel + 1, sr, g => if sr / radix = 0 then sr % radix :: g else part5Loop fuel (sr / radix) (sr % radix :: g)

/-- The iterative form of PART5 (R68). The bit length of n bounds its iterations. -/
def part5Iter (n : Nat) : List Nat := part5Loop (Nat.log2 n + 1) n []

/-- ASM5 (R69): result = result·32 + value, left to right, from 0. -/
def asm5 (v : List Nat) : Nat := v.foldl (fun acc x => acc * radix + x) 0

/-- MOD37 (R71). -/
def mod37 (n : Nat) : Nat := n % chkMod

/-- The iterative form of MOD37 over the groups of n (R72). -/
def mod37Iter (n : Nat) : Nat := (part5 n).foldl (fun r g => (r * radix + g) % chkMod) 0

/-- PAD (R73): left-pad with the zero symbol to width m; never shortens. -/
def pad (cfg : Config) (s : Str) (m : Nat) : Str := List.replicate (m - s.length) (zeroSym cfg) ++ s

/-- HYPH (R74): a hyphen after every character that has a positive multiple of k characters to its right. -/
def hyph (s : Str) (k : Nat) : Str :=
  match s with
  | [] => []
  | c :: rest =>
    if 0 < rest.length ∧ rest.length % k = 0 then c :: hyphen :: hyph rest k else c :: hyph rest k

/-- The iterative form of HYPH, the position counter CNT walking from the right end (R75). -/
def hyphIter (s : Str) (k : Nat) : Str :=
  (s.foldr (fun c (p : Str × Nat) => if p.2 = k then (c :: hyphen :: p.1, 1) else (c :: p.1, p.2 + 1)) ([], 0)).1

/-- NSYM (R87): the canonical symbol of an accepted character, the invalid marker for any other. -/
def nsym (cfg : Config) (c : Chr) : Chr :=
  match decm cfg c with
  | some v => alphaSym cfg v
  | none => invalidMark

end Sys2Proof.Machine
end

