-- ==== Sys2Proof/Machine/State.lean ====
section
/-! DEFINITION. The state of one B32C instance (spec/10_state.md R13), the reasons a step stops, and the state after reset
(R28). `none` is the spec's own state of a register: it "holds no value" (R20, R28, log entry 2). -/

namespace Sys2Proof.Machine

/-- The cells of a string buffer that hold a value (R23, R24), as (index, character) with the indices strictly rising. A cell
not listed holds no value (R28). -/
abbrev Memory := List Host.Cell

/-- The canonical form of a buffer: indices strictly rising. An unlisted cell reads as "no value" and a listed one as a
character, so no entry equals what an unlisted index reads as. -/
abbrev Memory.wf (m : Memory) : Prop := (m.map Prod.fst).Pairwise (· < ·)

/-- The machine stops with a fault. The faults of a COMMAND do not stop the machine: they are outcomes in STATUS
(`CmdFault`, R98). -/
inductive Fault where
  /-- Raised by a host access to a buffer cell that does not exist: a read of OBUF at or above OLEN (R24, R31), or, for a
  finite LMAX, a write of IBUF at or above LMAX (R30). Safe: the model stops where the spec has no such cell. -/
  | noSuchCell (i : Nat)
deriving DecidableEq, Repr

/-- The step has no meaning in the spec. -/
inductive Refusal where
  /-- Raised by `exec` for an instruction that has no meaning yet; no arm does. Safe. -/
  | notModelled (mnemonic : String)
  /-- Raised by a command that reads an operand the host has not written since reset: "has no meaning either: a model refuses
  it" (R28, R109). Safe. -/
  | operandUnwritten (r : Operand)
  /-- Raised by a host read of a register that holds no value: "a model faults or refuses the read" (R20, R111). Safe. -/
  | noValue (r : HostReg)
  /-- Raised by a host read of CMD: "not defined by this spec and a model gives it no meaning" (R17). Safe. -/
  | cmdWriteOnly
  /-- Raised by a command when W is finite and an operand, an intermediate value or a result is 2^W or more (R8). Safe. -/
  | numberTooWide
  /-- Raised by a command when LMAX is finite and its input or its result string is longer (R8, R40). Safe. -/
  | stringTooLong
deriving DecidableEq, Repr

/-- The architectural state (R13) and the model's two own fields, `pending` and `rdata`. -/
structure State where
  /-- NUM, the number to encode (R14). -/
  num : Option Nat
  /-- LEN, the `length` option (R15). -/
  len : Option Nat
  /-- SPL, the `split` option (R15). -/
  spl : Option Nat
  /-- ILEN, the length of the input string (R23). -/
  ilen : Option Nat
  /-- IBUF, the input buffer (R23). -/
  ibuf : Memory
  /-- CMD, the command word last written (R17). -/
  cmd : Option (BitVec 8)
  /-- STATUS, the outcome code (R18). -/
  status : Option Status
  /-- VAL, the result of DEC and DECX (R19). -/
  val : Option Nat
  /-- FLG, the result of VALID (R21). -/
  flg : Option Bool
  /-- OBUF, the output buffer (R24). -/
  obuf : Memory
  /-- OLEN, the length of the result string (R24). -/
  olen : Option Nat
  /-- The model's own: the host actions not yet performed, oldest first (R41, log entry 1). -/
  pending : List HostAction
  /-- The model's own: what the host's last read returned (R55, log entry 5). -/
  rdata : Option HostDatum
deriving DecidableEq, Repr

/-- The state right after reset (R28, R107): no register and no buffer cell holds a value, and nothing is pending. -/
def State.reset : State where
  num := none
  len := none
  spl := none
  ilen := none
  ibuf := []
  cmd := none
  status := none
  val := none
  flg := none
  obuf := []
  olen := none
  pending := []
  rdata := none

/-- Write NUM. -/
def State.setNum (s : State) (n : Nat) : State := { s with num := some n }
/-- Write LEN. -/
def State.setLen (s : State) (n : Nat) : State := { s with len := some n }
/-- Write SPL. -/
def State.setSpl (s : State) (n : Nat) : State := { s with spl := some n }
/-- Write ILEN. -/
def State.setIlen (s : State) (n : Nat) : State := { s with ilen := some n }
/-- Write IBUF. -/
def State.setIbuf (s : State) (m : Memory) : State := { s with ibuf := m }
/-- Write CMD. -/
def State.setCmd (s : State) (w : BitVec 8) : State := { s with cmd := some w }
/-- Write STATUS. -/
def State.setStatus (s : State) (x : Status) : State := { s with status := some x }
/-- Write VAL. -/
def State.setVal (s : State) (n : Nat) : State := { s with val := some n }
/-- Write FLG. -/
def State.setFlg (s : State) (b : Bool) : State := { s with flg := some b }
/-- Write OLEN and OBUF, which hold a value together (R20). -/
def State.setOut (s : State) (n : Nat) (m : Memory) : State := { s with olen := some n, obuf := m }
/-- VAL, FLG and (OBUF, OLEN) hold no value (R20). -/
def State.clearResults (s : State) : State := { s with val := none, flg := none, obuf := [], olen := none }
/-- Replace the host actions not yet performed. -/
def State.setPending (s : State) (q : List HostAction) : State := { s with pending := q }
/-- Give the host a datum. -/
def State.setRdata (s : State) (d : HostDatum) : State := { s with rdata := some d }

end Sys2Proof.Machine
end

