-- ==== Sys2Proof/Machine/Ops.lean ====
section
/-! DEFINITION. The operations over buffers and result registers that all commands share: MemRead and MemWrite (R10, R31), the
whole-string access (R35, R36), `invalid` (R20), raising a fault (R98) and ending a command (R18, R20). There is no return
from a fault: "There is no trap return command, because a fault transfers control nowhere" (R102). -/

namespace Sys2Proof.Machine

/-- `MemRead(B, i)`, or `none` where cell i holds no value (R10, R28). -/
def Memory.read (m : Memory) (i : Nat) : Option Chr :=
  match m with
  | [] => none
  | (a, c) :: rest => if a = i then some c else Memory.read rest i

/-- `MemWrite(B, i, c)` (R10). -/
def Memory.write (m : Memory) (i : Nat) (c : Chr) : Memory :=
  match m with
  | [] => [(i, c)]
  | (a, b) :: rest =>
    if i < a then (i, c) :: (a, b) :: rest
    else if i = a then (i, c) :: rest
    else (a, b) :: Memory.write rest i c

/-- `MemRead(B, j)` for j = i, i+1, ... over n cells; `none` where one of them holds no value (R35). -/
def Memory.readString (m : Memory) (i : Nat) : Nat → Option Str
  | 0 => some []
  | n + 1 =>
    match Memory.read m i with
    | none => none
    | some c => (Memory.readString m (i + 1) n).map (c :: ·)

/-- `MemWrite(B, i + j, s[j])` for every j below len(s) (R36). -/
def Memory.writeString (m : Memory) (i : Nat) : Str → Memory
  | [] => m
  | c :: t => Memory.writeString (Memory.write m i c) (i + 1) t

/-- `invalid(VAL); invalid(FLG); invalid(OBUF)`: what every command begins with (R20, R53). -/
def State.invalidate (s : State) : State := s.clearResults

/-- `OUT <- t`: OLEN and the cells OBUF[0..len(t)), the other cells holding no value (R24, R36). -/
def State.writeOut (s : State) (t : Str) : State := s.setOut t.length (Memory.writeString [] 0 t)

/-- The string in OBUF[0..OLEN), or `none` where OBUF and OLEN hold no value (R24, R55). -/
def State.out (s : State) : Option Str :=
  match s.olen with
  | none => none
  | some n => s.obuf.readString 0 n

/-- The code a fault leaves in STATUS (R93). -/
def faultStatus : CmdFault → Status
  | .malformedInput => .malformedInput
  | .invalidOption => .invalidOption
  | .illegalCmd => .illegalCmd

/-- `raise <Fault>` (R98): STATUS takes the fault's code, the result registers hold no value, and nothing else changes: "Nothing
is saved, no mode changes, no mask changes, no stack is touched, and control goes nowhere". -/
def State.raise (s : State) (k : CmdFault) : State := s.invalidate.setStatus (faultStatus k)

/-- The end of a command: the result registers are invalidated, those the outcome defines are written, and STATUS is written
last (R18, R20). -/
def State.finish (s : State) (r : Result) : State :=
  match r with
  | .str t => (s.invalidate.writeOut t).setStatus .ok
  | .num n => (s.invalidate.setVal n).setStatus .ok
  | .flag b => (s.invalidate.setFlg b).setStatus .ok
  | .noResult => s.invalidate.setStatus .noResult
  | .fault k => s.raise k

/-- A command as a step: it ends with its outcome (R92), or it has no meaning. -/
def complete (s : State) (r : Except Refusal Result) : Host.Outcome State Fault Refusal :=
  match r with
  | .ok x => .next (s.finish x)
  | .error e => .refused e

/-- The fault by which a rejected command word ends (R50 to R53). -/
def rejectFault : DecodeError → CmdFault
  | .illegalCmd => .illegalCmd
  | .invalidOption => .invalidOption

end Sys2Proof.Machine
end

