-- ==== Sys2Proof/Machine/Operands.lean ====
section
/-! DEFINITION. Every operand form of the commands (spec/10_state.md R29): NUM, LEN where L = 1, SPL where S = 1, and the input
string IN = IBUF[0..ILEN). A read of an operand the host has not written since reset is refused (R28, R109); a value that does
not fit a finite W or LMAX is refused (R8, R40). -/

namespace Sys2Proof.Machine

/-- Whether a number is below 2^W (R8). -/
def fitsNum (cfg : Config) (n : Nat) : Bool :=
  match cfg.width with
  | none => true
  | some w => n < 2 ^ w

/-- Whether a string of this length is at most LMAX characters long (R8, R40). -/
def fitsLen (cfg : Config) (n : Nat) : Bool :=
  match cfg.lmax with
  | none => true
  | some m => n ≤ m

/-- The content of an operand register, refused where the host has not written it since reset: "A command issued with an
unwritten operand has no meaning in this spec; a model refuses it" (R109; R28, D21, U8). -/
def readOperand (r : Operand) (v : Option Nat) : Except Refusal Nat :=
  match v with
  | some n => .ok n
  | none => .error (.operandUnwritten r)

/-- A number a command reads, refused where it does not fit W (R8). -/
def readNumber (cfg : Config) (r : Operand) (v : Option Nat) : Except Refusal Nat :=
  match readOperand r v with
  | .error e => .error e
  | .ok n => if fitsNum cfg n then .ok n else .error .numberTooWide

/-- `NUM` (R14). -/
def readNum (cfg : Config) (s : State) : Except Refusal Nat := readNumber cfg .num s.num

/-- An option's value: absent where its presence bit is 0, and then the register is not read (R15, R49). -/
def readOption (cfg : Config) (present : Bool) (r : Operand) (v : Option Nat) : Except Refusal (Option Nat) :=
  if present then (readNumber cfg r v).map some else .ok none

/-- The option `length` (R15, R49). -/
def readLen (cfg : Config) (l : Bool) (s : State) : Except Refusal (Option Nat) := readOption cfg l .len s.len

/-- The option `split` (R15, R49). -/
def readSpl (cfg : Config) (sp : Bool) (s : State) : Except Refusal (Option Nat) := readOption cfg sp .spl s.spl

/-- `IN = IBUF[0..ILEN)` (R23, R35), refused where ILEN or a cell below it has not been written since reset (R109 names both). ILEN is a Nat (R13), so it is checked against a finite W (R9) as well as a finite LMAX (R40);
that both bounds apply, and their order, is log entry 8. -/
def readIn (cfg : Config) (s : State) : Except Refusal Str :=
  match readNumber cfg .ilen s.ilen with
  | .error e => .error e
  | .ok n =>
    if fitsLen cfg n then
      match s.ibuf.readString 0 n with
      | some t => .ok t
      | none => .error (.operandUnwritten .ibuf)
    else .error .stringTooLong

/-- The input string without its last raw character, and that character; `none` for the empty string (R82, R88). -/
def splitLast (t : Str) : Option (Str × Chr) :=
  match t.getLast? with
  | none => none
  | some k => some (t.dropLast, k)

/-- The characters a string command looks up in DECM after cleaning: the whole input for C = 0, for C = 1 all but the last raw
character (R81, R82, R87, R88). -/
def inputBody (c : Bool) (t : Str) : Str := if c then t.dropLast else t

/-- The state with the operands command i reads written, those that already hold a value left as they are: what R109 asks of
the host before the command. Used by `State.withFetchWord` only (log entry 3). -/
def supplyOperands (cfg : Config) (i : Instr) (s : State) : State :=
  match i with
  | .enc _ l sp =>
    let s1 := if s.num.isNone then s.setNum 0 else s
    let s2 := if l && s1.len.isNone then s1.setLen 0 else s1
    if sp && s2.spl.isNone then s2.setSpl 1 else s2
  | .dec _ | .decx _ | .norm _ | .valid _ =>
    match readIn cfg s with
    | .ok _ => s
    | .error _ => (s.setIbuf (Memory.write s.ibuf 0 (zeroSym cfg))).setIlen 1

end Sys2Proof.Machine
end

