-- ==== Sys2Proof/Machine/Dec.lean ====
section
/-! DEFINITION. The DEC and DECX commands (spec/42_decode.md R81 to R86). -/

namespace Sys2Proof.Machine

/-- The loop of R81 over a cleaned body, from acc: `none` at the first character that is not a key of DECM (R83), else the
number. An intermediate value that does not fit a finite W has no meaning (R8). -/
def decLoop (cfg : Config) (acc : Nat) : Str → Except Refusal (Option Nat)
  | [] => .ok (some acc)
  | c :: rest =>
    match decm cfg c with
    | none => .ok none
    | some v => if fitsNum cfg (acc * radix + v) then decLoop cfg (acc * radix + v) rest else .error .numberTooWide

/-- Decoding a body: CLEAN, then the loop from 0 (R81). -/
def decBody (cfg : Config) (body : Str) : Except Refusal (Option Nat) := decLoop cfg 0 (clean body)

/-- Failure (b) of R82: the number is kept only where the checksum character's value is its remainder mod 37. -/
def checkSum (cfg : Config) (k : Chr) (acc : Nat) : Option Nat :=
  if decc cfg k = some (mod37 acc) then some acc else none

/-- What DEC makes of the input string: a number, or `none` for "no result" (R81 for C = 0, R82 for C = 1). The value of the
checksum character is an intermediate value that must fit a finite W (R8), read before the body as in R82 (log entry 8). -/
def decString (cfg : Config) (c : Bool) (input : Str) : Except Refusal (Option Nat) :=
  if c then
    match splitLast input with
    | none => .ok none
    | some (body, k) =>
      if (decc cfg k).all (fitsNum cfg) then (decBody cfg body).map fun r => r.bind (checkSum cfg k)
      else .error .numberTooWide
  else decBody cfg input

/-- A decoded number as a command's outcome, with the outcome that stands for "no result". -/
def numOr (failed : Result) (r : Option Nat) : Result :=
  match r with
  | some n => .num n
  | none => failed

/-- The outcome of DEC (R81, R82, R95). -/
def decResult (cfg : Config) (c : Bool) (s : State) : Except Refusal Result :=
  match readIn cfg s with
  | .error e => .error e
  | .ok input => (decString cfg c input).map (numOr .noResult)

/-- The outcome of DECX: DEC with MALFORMED_INPUT in place of "no result", the checksum option honoured as
DECX_FORWARDS_CHECKSUM says (R84, R96). -/
def decxResult (cfg : Config) (c : Bool) (s : State) : Except Refusal Result :=
  match readIn cfg s with
  | .error e => .error e
  | .ok input => (decString cfg (c && cfg.decxForwardsChecksum) input).map (numOr (.fault .malformedInput))

/-- DEC (R81, R82). -/
def execDec (c : Bool) (s : State) : Host.Outcome State Fault Refusal := complete s (decResult b32c c s)

/-- DECX (R84). -/
def execDecx (c : Bool) (s : State) : Host.Outcome State Fault Refusal := complete s (decxResult b32c c s)

end Sys2Proof.Machine
end

