-- ==== Sys2Proof/Machine/Enc.lean ====
section
/-! DEFINITION. The ENC command (spec/41_encode.md R77 to R80). -/

namespace Sys2Proof.Machine

/-- The string ENC writes: symbols, then checksum suffix, then padding, then hyphenation (R77, R78). -/
def encString (cfg : Config) (c : Bool) (len spl : Option Nat) (n : Nat) : Str :=
  let symbols := (part5 n).map (alphaSym cfg)
  let suffixed := if c then symbols ++ [comb cfg (mod37 n)] else symbols
  let padded := match len with
    | some m => pad cfg suffixed m
    | none => suffixed
  match spl with
  | some k => hyph padded k
  | none => padded

/-- The outcome of ENC (R77, R80). The check of SPL comes before NUM and LEN are read, so with SPL = 0 neither their absence nor,
for a finite W, their width counts (R97; the model's reading against R8 and the order of R77's pseudocode, log entry 7). The
result's length is OLEN, a Nat (R13), so it is checked against a finite W (R9) as well as a finite LMAX (R40, log entry 8). -/
def encResult (cfg : Config) (c l sp : Bool) (s : State) : Except Refusal Result :=
  match readSpl cfg sp s with
  | .error e => .error e
  | .ok spl =>
    if spl = some 0 then .ok (.fault .invalidOption)
    else
      match readNum cfg s, readLen cfg l s with
      | .error e, _ => .error e
      | .ok _, .error e => .error e
      | .ok n, .ok len =>
        let t := encString cfg c len spl n
        if !fitsNum cfg t.length then .error .numberTooWide
        else if fitsLen cfg t.length then .ok (.str t)
        else .error .stringTooLong

/-- ENC (R77). -/
def execEnc (c l sp : Bool) (s : State) : Host.Outcome State Fault Refusal := complete s (encResult b32c c l sp s)

end Sys2Proof.Machine
end

