-- ==== Sys2Proof/Machine/Flags.lean ====
section
/-! DEFINITION. The flag FLG and the codes of STATUS, the only flag-like state of B32C (spec/10_state.md R18, R21). -/

namespace Sys2Proof.Machine

/-- The 3-bit code of STATUS (R18, R93). -/
def statusCode : Status → BitVec 3
  | .ok => 0#3
  | .noResult => 1#3
  | .malformedInput => 2#3
  | .invalidOption => 3#3
  | .illegalCmd => 4#3

/-- FLG as VALID computes it from the normalised string: 0 if it contains the invalid marker, else 1 (R90). -/
def validFlag (s : Str) : Bool := !s.contains invalidMark

end Sys2Proof.Machine
end

