-- ==== Sys2Proof/Machine/Norm.lean ====
section
/-! DEFINITION. The NORM and VALID commands (spec/43_normalize_validate.md R87 to R91). -/

namespace Sys2Proof.Machine

/-- Normalising a body: CLEAN, then NSYM on each character (R87). -/
def normBody (cfg : Config) (body : Str) : Str := (clean body).map (nsym cfg)

/-- The normalised string: the whole input for C = 0 (R87); for C = 1 the last raw character is held aside and appended
unchanged, and the empty input gives the empty string (R88). -/
def normString (cfg : Config) (c : Bool) (input : Str) : Str :=
  if c then
    match splitLast input with
    | none => []
    | some (body, k) => normBody cfg body ++ [k]
  else normBody cfg input

/-- Whether the value of every character that is looked up in DECM fits a finite W (R8, log entry 8). -/
def symbolsFit (cfg : Config) (body : Str) : Bool := (clean body).all fun ch => (decm cfg ch).all (fitsNum cfg)

/-- The outcome of NORM (R87 to R89). Its result is never longer than its input, whose length ILEN fits, so OLEN fits too. -/
def normResult (cfg : Config) (c : Bool) (s : State) : Except Refusal Result :=
  match readIn cfg s with
  | .error e => .error e
  | .ok input =>
    if symbolsFit cfg (inputBody c input) then .ok (.str (normString cfg c input)) else .error .numberTooWide

/-- The outcome of VALID, from the string NORM would write (R90). -/
def validResult (cfg : Config) (c : Bool) (s : State) : Except Refusal Result :=
  match readIn cfg s with
  | .error e => .error e
  | .ok input =>
    if symbolsFit cfg (inputBody c input) then .ok (.flag (validFlag (normString cfg c input))) else .error .numberTooWide

/-- NORM (R87, R88). -/
def execNorm (c : Bool) (s : State) : Host.Outcome State Fault Refusal := complete s (normResult b32c c s)

/-- VALID (R90). -/
def execValid (c : Bool) (s : State) : Host.Outcome State Fault Refusal := complete s (validResult b32c c s)

end Sys2Proof.Machine
end

