-- ==== Sys2Proof/Machine/Dispatch.lean ====
section
/-! DEFINITION. One arm per command (spec/30_encoding.md R45). -/

namespace Sys2Proof.Machine

def exec (i : Instr) (s : State) : Host.Outcome State Fault Refusal :=
  match i with
  | .enc c l sp => Sys2Proof.Machine.execEnc c l sp s
  | .dec c => Sys2Proof.Machine.execDec c s
  | .decx c => Sys2Proof.Machine.execDecx c s
  | .norm c => Sys2Proof.Machine.execNorm c s
  | .valid c => Sys2Proof.Machine.execValid c s

end Sys2Proof.Machine
end

