-- ==== Sys2Proof/Machine/HostPort.lean ====
section
/-! DEFINITION. The host interface: what each host action does (spec/30_encoding.md R55, spec/20_memory.md R41,
spec/10_state.md R17, spec/70_reset_and_hazards.md R106), and the document's calls as
host actions (R56). -/

namespace Sys2Proof.Machine

/-- The host writes cell i of IBUF (R23); for a finite LMAX there is no cell at or above it (R30). -/
def hostWriteCell (cfg : Config) (i : Nat) (c : Chr) (s : State) : Host.Outcome State Fault Refusal :=
  if fitsLen cfg (i + 1) then .next (s.setIbuf (Memory.write s.ibuf i c)) else .fault (.noSuchCell i)

/-- `WRS "text"` (R55): the cells from index 0, then ILEN. Cells at and above the new ILEN are left as they were. -/
def hostWriteString (cfg : Config) (t : Str) (s : State) : Host.Outcome State Fault Refusal :=
  if fitsLen cfg t.length then .next ((s.setIbuf (Memory.writeString s.ibuf 0 t)).setIlen t.length)
  else .fault (.noSuchCell (cfg.lmax.getD 0))

/-- The host is given a register's content, or the read is refused where it holds no value: "a model faults or refuses the read
and never supplies a number, a bit or a string for it" (R20; R28, R111, D19, U8). -/
def hostDeliver (r : HostReg) (d : Option HostDatum) (s : State) : Host.Outcome State Fault Refusal :=
  match d with
  | some x => .next (s.setRdata x)
  | none => .refused (.noValue r)

/-- A host read of a register (R18, R19, R21, R24); a host read of CMD has no meaning (R17). -/
def hostRead (r : HostReg) (s : State) : Host.Outcome State Fault Refusal :=
  match r with
  | .status => hostDeliver .status (s.status.map .status) s
  | .val => hostDeliver .val (s.val.map .num) s
  | .flg => hostDeliver .flg (s.flg.map .bit) s
  | .olen => hostDeliver .olen (s.olen.map .num) s
  | .cmd => .refused .cmdWriteOnly

/-- A host read of cell i of OBUF: refused where OBUF holds no value (R20); there is no cell at or above OLEN (R24, R31). -/
def hostReadCell (i : Nat) (s : State) : Host.Outcome State Fault Refusal :=
  match s.olen with
  | none => .refused (.noValue .olen)
  | some _ =>
    match s.obuf.read i with
    | some c => .next (s.setRdata (.chr c))
    | none => .fault (.noSuchCell i)

/-- `RDS` (R55): OBUF[0..OLEN) as a string. -/
def hostReadString (s : State) : Host.Outcome State Fault Refusal := hostDeliver .olen (s.out.map .str) s

/-- A host write to CMD: the word is decoded and the command it encodes executed, or the decoding fault raised, as one
indivisible action (R17, R53). -/
def hostCommand (w : BitVec 8) (s : State) : Host.Outcome State Fault Refusal :=
  match decodeCmd w with
  | .ok i => exec i (s.setCmd w)
  | .error e => .next ((s.setCmd w).raise (rejectFault e))

/-- The reset event (R106, R107). The host's further actions stay pending. -/
def hostReset (s : State) : State := State.reset.setPending s.pending

/-- What a host action does (R41, R55). -/
def perform (a : HostAction) (s : State) : Host.Outcome State Fault Refusal :=
  match a with
  | .wrNum n => .next (s.setNum n)
  | .wrLen n => .next (s.setLen n)
  | .wrSpl n => .next (s.setSpl n)
  | .wrIlen n => .next (s.setIlen n)
  | .wrCell i c => hostWriteCell b32c i c s
  | .wrs t => hostWriteString b32c t s
  | .wrCmd w => hostCommand w s
  | .rd r => hostRead r s
  | .rdCell i => hostReadCell i s
  | .rds => hostReadString s
  | .reset => .next (hostReset s)

/-- The oldest pending host action is taken and performed; with none pending nothing happens: "no command executes until the
host writes CMD" (R28, R41). -/
def nextAction (s : State) : Host.Outcome State Fault Refusal :=
  match s.pending with
  | [] => .next s
  | a :: rest => perform a (s.setPending rest)

/-- The state in which the host's next action writes w to CMD, with the operands that command reads written (R17, R109). -/
def queueCommand (w : BitVec 8) (s : State) : State :=
  let supplied := match decodeCmd w with
    | .ok i => supplyOperands b32c i s
    | .error _ => s
  supplied.setPending (.wrCmd w :: s.pending)

/-- `encode(n, length?, split?, checksum?)` as host actions (R56). -/
def callEncode (n : Nat) (len spl : Option Nat) (checksum : Bool) : List HostAction :=
  [.wrNum n] ++ (len.map HostAction.wrLen).toList ++ (spl.map HostAction.wrSpl).toList ++
    [.wrCmd (encode (.enc checksum len.isSome spl.isSome)), .rds]

/-- `encode(n, <unknown key>=v)` as host actions: an ENC word with a non-zero RSV (R56, R50). -/
def callEncodeUnknownKey (n : Nat) : List HostAction := [.wrNum n, .wrCmd 0x40#8, .rd .status]

/-- The host performs a list of actions one after another, stopping at the first that answers no next state (R41). -/
def performAll : List HostAction → State → Host.Outcome State Fault Refusal
  | [], s => .next s
  | a :: rest, s =>
    match perform a s with
    | .next t => performAll rest t
    | .fault r => .fault r
    | .refused r => .refused r

/-- `decode(s, checksum?)` as host actions, up to the read of STATUS (R56). -/
def callDecode (t : Str) (checksum : Bool) : List HostAction := [.wrs t, .wrCmd (encode (.dec checksum)), .rd .status]

/-- `decode!(s, checksum?)` as host actions, up to the read of STATUS (R56). -/
def callDecodeOrFault (t : Str) (checksum : Bool) : List HostAction :=
  [.wrs t, .wrCmd (encode (.decx checksum)), .rd .status]

/-- "`RD STATUS`; if OK, `RD VAL`" (R56): what the host does once it holds what its read of STATUS returned. -/
def readValIfOk (d : Option HostDatum) : List HostAction := if d = some (.status .ok) then [.rd .val] else []

/-- Host actions whose last read decides what the host does next (R56). -/
def performThen (actions : List HostAction) (next : Option HostDatum → List HostAction) (s : State) :
    Host.Outcome State Fault Refusal :=
  match performAll actions s with
  | .next t => performAll (next t.rdata) t
  | .fault r => .fault r
  | .refused r => .refused r

/-- The whole of `decode(s, checksum?)`: the host ends up with the number, or with NO_RESULT (R56). -/
def performDecode (t : Str) (checksum : Bool) (s : State) : Host.Outcome State Fault Refusal :=
  performThen (callDecode t checksum) readValIfOk s

/-- The whole of `decode!(s, checksum?)`: the host ends up with the number, or with MALFORMED_INPUT (R56). -/
def performDecodeOrFault (t : Str) (checksum : Bool) (s : State) : Host.Outcome State Fault Refusal :=
  performThen (callDecodeOrFault t checksum) readValIfOk s

/-- `normalize(s, checksum?)` as host actions (R56). -/
def callNormalize (t : Str) (checksum : Bool) : List HostAction := [.wrs t, .wrCmd (encode (.norm checksum)), .rds]

/-- `valid?(s, checksum?)` as host actions (R56). -/
def callValid (t : Str) (checksum : Bool) : List HostAction := [.wrs t, .wrCmd (encode (.valid checksum)), .rd .flg]

end Sys2Proof.Machine
end

