-- ==== Sys2Proof/Machine/Step.lean ====
section
/-! DEFINITION. One step: the next host action (spec/20_memory.md R41). B32C has no program counter and no fetch (R22): the
commands run in the order in which the host writes CMD. -/

namespace Sys2Proof.Machine

/-- One step of the machine (R6, R41). -/
def step (s : State) : Host.Outcome State Fault Refusal := nextAction s

/-- The state whose very next step is the host's write of command word w to CMD (log entries 1 and 3). -/
def State.withFetchWord (s : State) (nbits w : Nat) : State := queueCommand (BitVec.ofNat 8 (w % 2 ^ nbits)) s

end Sys2Proof.Machine
end

