-- ==== Sys2Proof/Safety.lean ====
section
/-! DEFINITION. What claims about runs are stated in: the invariant of the state, what a command leaves unchanged, and
what an outcome shows. A safe step is one that answers a next state. -/

namespace Sys2Proof.Machine

/-- The next state an outcome answers, if it answers one. -/
def nextOf (o : Host.Outcome State Fault Refusal) : Option State :=
  match o with
  | .next t => some t
  | .fault _ => none
  | .refused _ => none

/-- OBUF holds exactly the cells below OLEN, and none where OLEN holds no value (R20, R24). -/
abbrev OutCells (s : State) : Prop := s.obuf.map Prod.fst = List.range (s.olen.getD 0)

/-- VAL, FLG and (OBUF, OLEN) hold no value. -/
abbrev NoResults (s : State) : Prop := s.val = none ∧ s.flg = none ∧ s.olen = none

/-- Exactly one of VAL, FLG and (OBUF, OLEN) holds a value. -/
abbrev OneResult (s : State) : Prop :=
  (s.val ≠ none ∧ s.flg = none ∧ s.olen = none) ∨ (s.val = none ∧ s.flg ≠ none ∧ s.olen = none) ∨
  (s.val = none ∧ s.flg = none ∧ s.olen ≠ none)

/-- The invariant: both buffers are in canonical form, OBUF holds exactly its OLEN cells, and a result register holds a value
just where STATUS = OK says so, and then exactly one does (R18, R20, R24, R28). -/
abbrev StateInv (s : State) : Prop :=
  s.ibuf.wf ∧ s.obuf.wf ∧ OutCells s ∧ (s.status = some .ok → OneResult s) ∧ (s.status ≠ some .ok → NoResults s)

/-- What no command changes: the operand registers, the input buffer (R16), CMD, and the host's side. -/
abbrev SameOperands (s t : State) : Prop :=
  t.num = s.num ∧ t.len = s.len ∧ t.spl = s.spl ∧ t.ilen = s.ilen ∧ t.ibuf = s.ibuf ∧ t.cmd = s.cmd ∧
  t.pending = s.pending ∧ t.rdata = s.rdata

/-- OBUF and OLEN hold the string x: OLEN = len(x) and OBUF[i] = x[i], the cells above holding no value (R24). -/
abbrev HoldsOut (s : State) (x : Str) : Prop := s.olen = some x.length ∧ ∀ i : Nat, s.obuf.read i = x[i]?

/-- OBUF and OLEN hold no value (R20). -/
abbrev NoOut (s : State) : Prop := s.olen = none ∧ ∀ i : Nat, s.obuf.read i = none

/-- The input string the host has written is x: ILEN = len(x) and IBUF[i] = x[i] below it (R23). -/
abbrev HoldsIn (s : State) (x : Str) : Prop := s.ilen = some x.length ∧ ∀ i : Nat, i < x.length → s.ibuf.read i = x[i]?

/-- The outcome of a command as a value, or that it has no meaning: "a function of the command word and of the operands that
command reads" (R20, R26). -/
def outcomeOf (i : Instr) (s : State) : Except Refusal Result :=
  match i with
  | .enc c l sp => encResult b32c c l sp s
  | .dec c => decResult b32c c s
  | .decx c => decxResult b32c c s
  | .norm c => normResult b32c c s
  | .valid c => validResult b32c c s

/-- The registers of t show outcome r: its STATUS, the result register it defines, and no value in the others (R18, R20). -/
def Shows (t : State) (r : Result) : Prop :=
  match r with
  | .str x => t.status = some .ok ∧ HoldsOut t x ∧ t.val = none ∧ t.flg = none
  | .num n => t.status = some .ok ∧ t.val = some n ∧ t.flg = none ∧ NoOut t
  | .flag b => t.status = some .ok ∧ t.flg = some b ∧ t.val = none ∧ NoOut t
  | .noResult => t.status = some .noResult ∧ t.val = none ∧ t.flg = none ∧ NoOut t
  | .fault k => t.status = some (faultStatus k) ∧ t.val = none ∧ t.flg = none ∧ NoOut t

/-- Command i, executed in state s, answers a next state that shows outcome r and leaves everything else as it was. -/
def Ends (i : Instr) (s : State) (r : Result) : Prop := ∃ t, exec i s = .next t ∧ Shows t r ∧ SameOperands s t

end Sys2Proof.Machine
end

