-- ==== Sys2Proof/WellFormed.lean ====
section
/-! DEFINITION. What a well-formed command word is (spec/30_encoding.md R50 to R52), by its fields, and what a well-formed
configuration is (spec/40_datapath_units.md R57, R58, R61, R62), one Bool per check. Every term of `Instr` is a well-formed
command by its type: its fields are exactly the option bits the command recognises (R48, R49, R51). -/

namespace Sys2Proof

/-- R52: OP encodes a command. -/
def CmdFields.opDefined (f : CmdFields) : Bool := f.op.toNat < 5

/-- R50: RSV is 00. -/
def CmdFields.rsvZero (f : CmdFields) : Bool := f.rsv == 0#2

/-- R51: L and S stand on ENC only. -/
def CmdFields.optionsRecognised (f : CmdFields) : Bool := f.op == 0#3 || (!f.l && !f.s)

/-- A valid command word, by its fields (R53). -/
def CmdFields.wellFormed (f : CmdFields) : Bool := f.opDefined && f.rsvZero && f.optionsRecognised

/-- R57: 32 main symbols and 5 checksum-only symbols. -/
def Config.sizes (cfg : Config) : Bool := cfg.alpha.length == radix && cfg.chksym.length == nChk

/-- R58 item 1: the symbols of ALPHA are distinct. -/
def Config.alphaDistinct (cfg : Config) : Bool := decide cfg.alpha.Nodup

/-- R58 item 2: the symbols of CHKSYM are distinct and none is in ALPHA. -/
def Config.chksymDisjoint (cfg : Config) : Bool :=
  decide cfg.chksym.Nodup && cfg.chksym.all fun c => !cfg.alpha.contains c

/-- R58 item 3 and R62 item 3: the invalid marker is no symbol. -/
def Config.markReserved (cfg : Config) : Bool := !cfg.alpha.contains invalidMark && !cfg.chksym.contains invalidMark

/-- R58 item 4: the hyphen is no symbol. -/
def Config.hyphenReserved (cfg : Config) : Bool := !cfg.alpha.contains hyphen && !cfg.chksym.contains hyphen

/-- R58 item 5 for ALPHA, and for CHKSYM the "exactly 40 keys" of R61: the synonyms I, L, O are no symbols. -/
def Config.synonymsReserved (cfg : Config) : Bool :=
  (cfg.alpha ++ cfg.chksym).all fun c => (Machine.synonym c).isNone

/-- R58 item 6 for ALPHA, and for CHKSYM R62 item 3: every symbol is unchanged by upper-casing. -/
def Config.upperCase (cfg : Config) : Bool := (cfg.alpha ++ cfg.chksym).all fun c => Machine.up c == c

/-- R58 item 7: what the document's examples fix. -/
def Config.examplesFixed (cfg : Config) : Bool :=
  cfg.alpha[0]? == some (chr '0') && cfg.alpha[1]? == some (chr '1') && cfg.alpha[6]? == some (chr '6') &&
  cfg.alpha[18]? == some (chr 'J') && (str "23BDEHRW").all (fun c => cfg.alpha.contains c) &&
  !cfg.alpha.contains (chr 'U')

/-- The constraints on the table contents that hold "whatever values the parameters ALPHA and CHKSYM take" (R58). -/
def Config.wellFormed (cfg : Config) : Bool :=
  cfg.sizes && cfg.alphaDistinct && cfg.chksymDisjoint && cfg.markReserved && cfg.hyphenReserved &&
  cfg.synonymsReserved && cfg.upperCase && cfg.examplesFixed

end Sys2Proof
end

