-- ==== Sys2Proof/Certificates/Slice0/Obligations.lean ====
section
/-! DEFINITION. The statements for the provers, from the numbered rules of spec/. `Ends i s r` says that exec answers a next
state for command i in state s, that this state shows outcome r, and that nothing but STATUS and the result registers changed. -/

open Sys2Proof
open Sys2Proof.Machine

/-! ### Command words -/

/-- Decoding and encoding agree on all 256 words (R46, R47, R50 to R53): a word decodes to a command exactly when it is that
command's word. -/
def Obligations.DecodeIffEncode : Prop :=
  ∀ (w : BitVec 8) (i : Instr), decodeCmd w = .ok i ↔ w = encode i

/-- The fields of a word survive building it and taking it apart (R46), and the decoder accepts exactly the fields that pass
the three checks of R50 to R52. -/
def Obligations.DecoderAcceptsWellFormedFields : Prop :=
  ∀ f : CmdFields, CmdFields.ofWord f.toWord = f ∧ ((∃ i, decodeCmd f.toWord = .ok i) ↔ f.wellFormed = true)

/-- The sixteen valid words that R53 lists, each with its command, and the census of the 256 words. -/
def Obligations.WordsOfR53 : Prop :=
  [0x00#8, 0x08#8, 0x10#8, 0x18#8, 0x20#8, 0x28#8, 0x30#8, 0x38#8].map decodeCmd =
    [.ok (.enc false false false), .ok (.enc true false false), .ok (.enc false true false), .ok (.enc true true false),
     .ok (.enc false false true), .ok (.enc true false true), .ok (.enc false true true), .ok (.enc true true true)] ∧
  [0x01#8, 0x09#8, 0x02#8, 0x0A#8, 0x03#8, 0x0B#8, 0x04#8, 0x0C#8].map decodeCmd =
    [.ok (.dec false), .ok (.dec true), .ok (.decx false), .ok (.decx true),
     .ok (.norm false), .ok (.norm true), .ok (.valid false), .ok (.valid true)] ∧
  ((List.range 256).countP fun n => match decodeCmd (BitVec.ofNat 8 n) with | .ok _ => true | .error _ => false) = 16 ∧
  ((List.range 256).countP fun n =>
    match decodeCmd (BitVec.ofNat 8 n) with | .error .illegalCmd => true | _ => false) = 96 ∧
  ((List.range 256).countP fun n =>
    match decodeCmd (BitVec.ofNat 8 n) with | .error .invalidOption => true | _ => false) = 144

/-- R52: a host write to CMD of a word whose OP is 5, 6 or 7 raises ILLEGAL_CMD, whatever its other bits and whatever the
state. That CMD then holds the rejected word is the model's choice (log entry 6). -/
def Obligations.UndefinedOpRaisesIllegalCmd : Prop :=
  ∀ (s : State) (w : BitVec 8) (q : List HostAction), s.pending = .wrCmd w :: q → 5 ≤ (w.extractLsb' 0 3).toNat →
    ∃ t, step s = .next t ∧ Shows t (.fault .illegalCmd) ∧ SameOperands { s with pending := q, cmd := some w } t

/-- R50: a word with a defined OP and RSV not 00 raises INVALID_OPTION, whatever the state. That CMD then holds the rejected word
is the model's choice (log entry 6). -/
def Obligations.ReservedBitsRaiseInvalidOption : Prop :=
  ∀ (s : State) (w : BitVec 8) (q : List HostAction), s.pending = .wrCmd w :: q → (w.extractLsb' 0 3).toNat < 5 →
    w.extractLsb' 6 2 ≠ 0#2 →
    ∃ t, step s = .next t ∧ Shows t (.fault .invalidOption) ∧ SameOperands { s with pending := q, cmd := some w } t

/-- R51: L = 1 or S = 1 on DEC, DECX, NORM or VALID raises INVALID_OPTION, whatever the state. That CMD then holds the rejected
word is the model's choice (log entry 6). -/
def Obligations.UnrecognisedOptionRaisesInvalidOption : Prop :=
  ∀ (s : State) (w : BitVec 8) (q : List HostAction), s.pending = .wrCmd w :: q →
    1 ≤ (w.extractLsb' 0 3).toNat → (w.extractLsb' 0 3).toNat ≤ 4 → (w.getLsbD 4 = true ∨ w.getLsbD 5 = true) →
    ∃ t, step s = .next t ∧ Shows t (.fault .invalidOption) ∧ SameOperands { s with pending := q, cmd := some w } t

/-! ### Steps -/

/-- A step whose next host action writes a word that decodes to command i is exec of i, in the state in which that action is
no longer pending and CMD holds the word: R17 has the write execute the command; that CMD holds the word is the model's choice
(log entry 6). -/
def Obligations.StepRunsDecodedCommand : Prop :=
  ∀ (s : State) (w : BitVec 8) (q : List HostAction) (i : Instr), s.pending = .wrCmd w :: q → decodeCmd w = .ok i →
    step s = exec i { s with pending := q, cmd := some w }

/-- With no host action pending a step changes nothing (R28 "no command executes until the host writes CMD"; that the machine
then steps to itself is the model's choice, log entry 4). -/
def Obligations.IdleStepChangesNothing : Prop := ∀ s : State, s.pending = [] → step s = .next s

/-! ### ENC -/

/-- R77: the encoding of ENC, its result for every option form, and its fault. The four stages stand in the order of the
pseudocode. -/
def Obligations.EncCommandMeaning : Prop :=
  ∀ (c l sp : Bool) (s : State) (n m k : Nat),
    s.num = some n → (l = true → s.len = some m) → (sp = true → s.spl = some k) →
    decodeCmd (0#2 ++ BitVec.ofBool sp ++ BitVec.ofBool l ++ BitVec.ofBool c ++ 0#3) = .ok (.enc c l sp) ∧
    (sp = true ∧ k = 0 → Ends (.enc c l sp) s (.fault .invalidOption)) ∧
    (¬(sp = true ∧ k = 0) →
      Ends (.enc c l sp) s (.str (
        let s0 := (part5 n).map (alphaSym b32c)
        let s1 := if c = true then s0 ++ [comb b32c (mod37 n)] else s0
        let s2 := if l = true then pad b32c s1 m else s1
        if sp = true then hyph s2 k else s2)))

/-- ENC with S = 1 and SPL = 0 raises INVALID_OPTION before NUM and LEN are read, so whatever they hold (R80, R97; the order
against the read of NUM is the model's reading, log entry 7). -/
def Obligations.EncZeroSplitRaisesInvalidOption : Prop :=
  ∀ (c l : Bool) (s : State), s.spl = some 0 → Ends (.enc c l true) s (.fault .invalidOption)

/-- The length of an ENC result (R79 item 4). -/
def Obligations.EncResultLength : Prop :=
  ∀ (c l sp : Bool) (s : State) (n m k : Nat),
    s.num = some n → (l = true → s.len = some m) → (sp = true → s.spl = some k ∧ 0 < k) →
    ∃ x, Ends (.enc c l sp) s (.str x) ∧
      x.length = (
        let b := (part5 n).length + c.toNat
        let p := if l = true then max b m else b
        if sp = true then p + (p - 1) / k else p) ∧
      1 ≤ x.length

/-- What an ENC result consists of (R79 item 5): symbols of ALPHA, hyphens only with S = 1, and with C = 1 the checksum symbol
in the last place, which is checksum-only exactly when NUM mod 37 is 32 or more; never the invalid marker or a synonym. -/
def Obligations.EncResultSymbols : Prop :=
  ∀ (c l sp : Bool) (s : State) (n m k : Nat),
    s.num = some n → (l = true → s.len = some m) → (sp = true → s.spl = some k ∧ 0 < k) →
    ∃ body last, Ends (.enc c l sp) s (.str (body ++ last)) ∧
      (∀ ch ∈ body, ch ∈ b32c.alpha ∨ (ch = hyphen ∧ sp = true)) ∧
      last = (if c = true then [comb b32c (n % 37)] else []) ∧
      (comb b32c (n % 37) ∈ b32c.chksym ↔ 32 ≤ n % 37) ∧
      (∀ ch ∈ body ++ last, ch ≠ chr '?' ∧ ch ≠ chr 'I' ∧ ch ≠ chr 'L' ∧ ch ≠ chr 'O')

/-- ENC with no option of a number below 32 gives the one symbol of that value; 0 with C = 1 gives two zero symbols
(R79 items 1 and 2). -/
def Obligations.EncSmallNumbers : Prop :=
  ∀ (s : State) (n : Nat), s.num = some n → n < 32 →
    Ends (.enc false false false) s (.str [alphaSym b32c n]) ∧
    (n = 0 → Ends (.enc true false false) s (.str [chr '0', chr '0']))

/-- Without L an ENC result has no leading zero symbol unless NUM = 0 (R79 item 3). -/
def Obligations.EncNoLeadingZero : Prop :=
  ∀ (c sp : Bool) (s : State) (n k : Nat), s.num = some n → (sp = true → s.spl = some k ∧ 0 < k) → 0 < n →
    ∃ ch rest, Ends (.enc c false sp) s (.str (ch :: rest)) ∧ ch ∈ b32c.alpha ∧ ch ≠ chr '0'

/-! ### DEC and DECX -/

/-- R81: DEC with C = 0. Every character of the cleaned string a key of DECM: OK with the assembled number; some character not:
NO_RESULT. -/
def Obligations.DecPlainMeaning : Prop :=
  ∀ (s : State) (x : Str), HoldsIn s x →
    decodeCmd 0x01#8 = .ok (.dec false) ∧
    (∀ v : List Nat, (clean x).map (decm b32c) = v.map some →
      Ends (.dec false) s (.num (v.foldl (fun acc d => acc * 32 + d) 0))) ∧
    ((∃ ch ∈ clean x, decm b32c ch = none) → Ends (.dec false) s .noResult)

/-- R82: DEC with C = 1. The last raw character is the checksum, looked up in DECC; the rest is decoded as for C = 0. -/
def Obligations.DecChecksumMeaning : Prop :=
  ∀ (s : State) (x : Str), HoldsIn s x →
    decodeCmd 0x09#8 = .ok (.dec true) ∧
    (x = [] → Ends (.dec true) s .noResult) ∧
    (∀ (body : Str) (k : Chr), x = body ++ [k] →
      (∀ v : List Nat, (clean body).map (decm b32c) = v.map some →
        (decc b32c k = some (v.foldl (fun acc d => acc * 32 + d) 0 % 37) →
          Ends (.dec true) s (.num (v.foldl (fun acc d => acc * 32 + d) 0))) ∧
        (decc b32c k ≠ some (v.foldl (fun acc d => acc * 32 + d) 0 % 37) → Ends (.dec true) s .noResult)) ∧
      ((∃ ch ∈ clean body, decm b32c ch = none) → Ends (.dec true) s .noResult))

/-- R84: DECX performs DEC with the same option, with MALFORMED_INPUT in place of NO_RESULT and never NO_RESULT; with
DECX_FORWARDS_CHECKSUM false, `DECX C` behaves as DECX without C. -/
def Obligations.DecxFollowsDec : Prop :=
  decodeCmd 0x02#8 = .ok (.decx false) ∧ decodeCmd 0x0A#8 = .ok (.decx true) ∧
  (∀ (c : Bool) (s : State) (x : Str), HoldsIn s x →
    (∃ n, Ends (.dec c) s (.num n) ∧ Ends (.decx c) s (.num n)) ∨
    (Ends (.dec c) s .noResult ∧ Ends (.decx c) s (.fault .malformedInput))) ∧
  (∀ (cfg : Config) (s : State), cfg.decxForwardsChecksum = false → decxResult cfg true s = decxResult cfg false s)

/-- DECX completes with the number on every accepted input: for C = 0 the assembled body, for C = 1 the body whose remainder
mod 37 is the value of the last raw character (R84 with R81 and R82). -/
def Obligations.DecxCompletesOnAcceptedInput : Prop :=
  ∀ (c : Bool) (s : State) (body : Str) (k : Chr) (v : List Nat),
    HoldsIn s (if c = true then body ++ [k] else body) →
    (clean body).map (decm b32c) = v.map some →
    (c = true → decc b32c k = some (v.foldl (fun acc d => acc * 32 + d) 0 % 37)) →
    Ends (.decx c) s (.num (v.foldl (fun acc d => acc * 32 + d) 0))

/-- R86: the corner cases of DEC and DECX, item by item. -/
def Obligations.DecCornerCases : Prop :=
  (∀ (s : State) (x : Str), HoldsIn s x → clean x = [] →
    Ends (.dec false) s (.num 0) ∧ Ends (.decx false) s (.num 0)) ∧
  (∀ s : State, HoldsIn s [] → Ends (.dec true) s .noResult ∧ Ends (.decx true) s (.fault .malformedInput)) ∧
  (∀ (s : State) (k : Chr), HoldsIn s [k] →
    ((k = chr '0' ∨ k = chr 'O') → Ends (.dec true) s (.num 0) ∧ Ends (.decx true) s (.num 0)) ∧
    (¬(k = chr '0' ∨ k = chr 'O') → Ends (.dec true) s .noResult ∧ Ends (.decx true) s (.fault .malformedInput))) ∧
  (∀ (s : State) (body : Str), HoldsIn s (body ++ [hyphen]) →
    Ends (.dec true) s .noResult ∧ Ends (.decx true) s (.fault .malformedInput)) ∧
  (∀ (s u : State) (body : Str) (k : Chr), HoldsIn s (body ++ [k]) → HoldsIn u (body ++ [hyphen, k]) →
    ∃ r, Ends (.dec true) s r ∧ Ends (.dec true) u r) ∧
  (∀ (c : Bool) (s : State) (x : Str) (ch : Chr), HoldsIn s x → ch ∈ x →
    (ch = invalidMark ∨ ch.toNat ≤ 0x20 ∨ 0x7F ≤ ch.toNat) →
    Ends (.dec c) s .noResult ∧ Ends (.decx c) s (.fault .malformedInput)) ∧
  (∀ (c : Bool) (s : State) (x : Str), HoldsIn s x → (∃ n, Ends (.dec c) s (.num n)) ∨ Ends (.dec c) s .noResult) ∧
  (∀ n : Nat, ∃ x : Str, ∀ s : State, HoldsIn s x → Ends (.dec false) s (.num n))

/-- Hyphens in the body, the case of its letters (all of them upper-cased, or one of `a` to `z`, code 0x61 + d, against `A` to
`Z`, code 0x41 + d) and the synonyms of 1 and 0 change nothing of what DEC and DECX answer (R85 items 3 to 5). The suffix k is
the checksum character of C = 1, which is not part of the body. -/
def Obligations.DecIgnoresHyphensCaseSynonyms : Prop :=
  ∀ (c : Bool) (k : Chr) (i : Instr) (s u : State), i = .dec c ∨ i = .decx c →
    (∀ a b : Str, HoldsIn s (a ++ b ++ if c = true then [k] else []) →
      HoldsIn u (a ++ hyphen :: b ++ if c = true then [k] else []) → ∃ r, Ends i s r ∧ Ends i u r) ∧
    (∀ a : Str, HoldsIn s (a ++ if c = true then [k] else []) →
      HoldsIn u (a.map up ++ if c = true then [k] else []) → ∃ r, Ends i s r ∧ Ends i u r) ∧
    (∀ (a b : Str) (d : Nat), d < 26 →
      HoldsIn s (a ++ BitVec.ofNat 8 (0x61 + d) :: b ++ if c = true then [k] else []) →
      HoldsIn u (a ++ BitVec.ofNat 8 (0x41 + d) :: b ++ if c = true then [k] else []) → ∃ r, Ends i s r ∧ Ends i u r) ∧
    (∀ (a b : Str) (d : Char × Char), d ∈ [('1', 'I'), ('1', 'i'), ('1', 'L'), ('1', 'l'), ('0', 'O'), ('0', 'o')] →
      HoldsIn s (a ++ chr d.1 :: b ++ if c = true then [k] else []) →
      HoldsIn u (a ++ chr d.2 :: b ++ if c = true then [k] else []) → ∃ r, Ends i s r ∧ Ends i u r)

/-- Round trip (R85 items 1 and 2): what ENC writes, with any options, DEC and DECX with the same checksum option read back as
the number. -/
def Obligations.EncDecRoundTrip : Prop :=
  ∀ (c l sp : Bool) (s : State) (n m k : Nat),
    s.num = some n → (l = true → s.len = some m) → (sp = true → s.spl = some k ∧ 0 < k) →
    ∃ x, Ends (.enc c l sp) s (.str x) ∧
      ∀ u : State, HoldsIn u x → Ends (.dec c) u (.num n) ∧ Ends (.decx c) u (.num n)

/-- The round trip holds for every content of the tables that meets `Config.wellFormed`, and for every finite W the number fits
(R8, D10). Those are the constraints of R58 and those on CHKSYM that the model reads from R61 and R62 (log entry 21). -/
def Obligations.RoundTripForEveryAlphabet : Prop :=
  ∀ (cfg : Config) (c : Bool) (len spl : Option Nat) (n : Nat),
    cfg.wellFormed = true → fitsNum cfg n = true → spl ≠ some 0 →
    decString cfg c (encString cfg c len spl n) = .ok (some n)

/-- A string ENC made with C = 1, decoded with C = 0: the checksum symbol is read as a body symbol, or gives NO_RESULT where it
is checksum-only (R85 item 7). -/
def Obligations.ChecksumStringDecodedWithoutChecksum : Prop :=
  ∀ (l sp : Bool) (s : State) (n m k : Nat),
    s.num = some n → (l = true → s.len = some m) → (sp = true → s.spl = some k ∧ 0 < k) →
    ∃ x, Ends (.enc true l sp) s (.str x) ∧
      ∀ u : State, HoldsIn u x → Ends (.dec false) u (if n % 37 < 32 then .num (32 * n + n % 37) else .noResult)

/-! ### NORM and VALID -/

/-- R87: NORM with C = 0. -/
def Obligations.NormPlainMeaning : Prop :=
  ∀ (s : State) (x : Str), HoldsIn s x →
    decodeCmd 0x03#8 = .ok (.norm false) ∧
    Ends (.norm false) s (.str ((clean x).map fun ch =>
      match decm b32c ch with
      | some v => alphaSym b32c v
      | none => chr '?'))

/-- R88: NORM with C = 1: the last raw character is held aside and appended unchanged. -/
def Obligations.NormChecksumMeaning : Prop :=
  ∀ (s : State) (x : Str), HoldsIn s x →
    decodeCmd 0x0B#8 = .ok (.norm true) ∧
    (x = [] → Ends (.norm true) s (.str [])) ∧
    (∀ (body : Str) (k : Chr), x = body ++ [k] →
      Ends (.norm true) s (.str (((clean body).map fun ch =>
        match decm b32c ch with
        | some v => alphaSym b32c v
        | none => chr '?') ++ [k])))

/-- R89: NORM never fails, VALID never fails, and the four properties of a normalised string. -/
def Obligations.NormNeverFailsAndIsCanonical : Prop :=
  ∀ (c : Bool) (s : State) (x : Str), HoldsIn s x →
    (∃ b, Ends (.valid c) s (.flag b)) ∧
    ∃ y, Ends (.norm c) s (.str y) ∧
      (c = false →
        y.length = (clean x).length ∧ y.length + x.count hyphen = x.length ∧
        (∀ ch ∈ y, (ch ∈ b32c.alpha ∨ ch = invalidMark) ∧ ch ≠ hyphen ∧ up ch = ch ∧ synonym ch = none) ∧
        (∀ u : State, HoldsIn u y → Ends (.norm false) u (.str y)) ∧
        (invalidMark ∉ y → ∀ u : State, HoldsIn u y → ∃ r, Ends (.dec false) s r ∧ Ends (.dec false) u r)) ∧
      (c = true → ∀ (body : Str) (k : Chr), x = body ++ [k] → y.length = (clean body).length + 1)

/-- R90: VALID sets FLG to 1 exactly when the string NORM gives for the same input contains no invalid marker, and writes no
OBUF. -/
def Obligations.ValidFollowsNorm : Prop :=
  decodeCmd 0x04#8 = .ok (.valid false) ∧ decodeCmd 0x0C#8 = .ok (.valid true) ∧
  ∀ (c : Bool) (s : State) (x : Str), HoldsIn s x →
    ∃ (y : Str) (b : Bool), Ends (.norm c) s (.str y) ∧ Ends (.valid c) s (.flag b) ∧ (b = true ↔ chr '?' ∉ y)

/-- R91: the corner cases of NORM and VALID, item by item. -/
def Obligations.NormValidCornerCases : Prop :=
  (∀ (s : State) (x : Str), HoldsIn s x → (∀ ch ∈ x, ch = hyphen) →
    Ends (.norm false) s (.str []) ∧ Ends (.valid false) s (.flag true)) ∧
  (∀ s : State, HoldsIn s [] → Ends (.norm true) s (.str []) ∧ Ends (.valid true) s (.flag true)) ∧
  (∀ (s : State) (k : Chr), HoldsIn s [k] →
    Ends (.norm true) s (.str [k]) ∧ (Ends (.valid true) s (.flag false) ↔ k = chr '?') ∧
    (Ends (.valid true) s (.flag true) ↔ k ≠ chr '?')) ∧
  (∀ (s : State) (x : Str), HoldsIn s x →
    (Ends (.valid false) s (.flag true) ↔ ∃ n, Ends (.dec false) s (.num n)) ∧
    (Ends (.valid false) s (.flag false) ↔ ¬∃ n, Ends (.dec false) s (.num n))) ∧
  (∀ s : State, HoldsIn s (str "16JX") → Ends (.valid true) s (.flag true) ∧ Ends (.dec true) s .noResult) ∧
  (∀ (s : State) (x : Str), x ∈ [str "16Jx", str "16J-", str "16J!"] → HoldsIn s x → Ends (.valid true) s (.flag true)) ∧
  (∀ (c : Bool) (s : State) (x : Str), HoldsIn s x → chr '?' ∈ x → Ends (.valid c) s (.flag false)) ∧
  (∀ s : State, HoldsIn s (str "16JU") →
    Ends (.norm false) s (.str (str "16J?")) ∧ Ends (.valid false) s (.flag false) ∧
    Ends (.norm true) s (.str (str "16JU")) ∧ Ends (.valid true) s (.flag true))

/-! ### Frames, outcomes, faults -/

/-- R16: after any command word, whatever its outcome, NUM, LEN, SPL, ILEN and every cell of IBUF hold what they held. -/
def Obligations.CommandsKeepOperands : Prop :=
  ∀ (s t : State) (w : BitVec 8) (q : List HostAction), s.pending = .wrCmd w :: q → step s = .next t →
    t.num = s.num ∧ t.len = s.len ∧ t.spl = s.spl ∧ t.ilen = s.ilen ∧ ∀ j : Nat, t.ibuf.read j = s.ibuf.read j

/-- The frame and the outcomes of each command (R20, R93): every command that answers a next state shows one of the outcomes
its kind has, writes STATUS, and changes nothing outside STATUS and the result registers. -/
def Obligations.CommandOutcomesAndFrame : Prop :=
  ∀ (i : Instr) (s t : State), exec i s = .next t →
    SameOperands s t ∧
    match i with
    | .enc _ _ _ => (∃ x, Shows t (.str x)) ∨ Shows t (.fault .invalidOption)
    | .dec _ => (∃ n, Shows t (.num n)) ∨ Shows t .noResult
    | .decx _ => (∃ n, Shows t (.num n)) ∨ Shows t (.fault .malformedInput)
    | .norm _ => ∃ x, Shows t (.str x)
    | .valid _ => ∃ b, Shows t (.flag b)

/-- R98 and R95: a command write that ends in a fault or in NO_RESULT changes STATUS and empties the result registers, and
nothing else but CMD. That CMD then holds the word written, also a rejected one, is the model's choice (log entry 6). -/
def Obligations.FailedCommandChangesOnlyStatus : Prop :=
  ∀ (s t : State) (w : BitVec 8) (q : List HostAction), s.pending = .wrCmd w :: q → step s = .next t →
    t.status ≠ some .ok →
    t = { s with pending := q, cmd := some w, status := t.status, val := none, flg := none, obuf := [], olen := none }

/-- R26: the outcome of a command depends on the command word and on the operands that command reads (R29) and on nothing
else: two states that agree on them give the same STATUS and results, or are refused alike. -/
def Obligations.OutcomeDependsOnOperandsOnly : Prop :=
  ∀ (i : Instr) (s u : State),
    (match i with
      | .enc _ l sp => u.num = s.num ∧ (l = true → u.len = s.len) ∧ (sp = true → u.spl = s.spl)
      | .dec _ | .decx _ | .norm _ | .valid _ =>
        u.ilen = s.ilen ∧ ∀ n, s.ilen = some n → ∀ j, j < n → u.ibuf.read j = s.ibuf.read j) →
    (∀ t, exec i s = .next t → ∃ t', exec i u = .next t' ∧ t'.status = t.status ∧ t'.val = t.val ∧ t'.flg = t.flg ∧
      t'.olen = t.olen ∧ ∀ j : Nat, t'.obuf.read j = t.obuf.read j) ∧
    (∀ e, exec i s = .refused e → exec i u = .refused e)

/-- R109 with R28: a command has a meaning exactly when the host has written every operand it reads since reset; otherwise it
is refused for an unwritten operand. (ENC with S = 1 and SPL = 0 reads no other operand: log entry 7.) -/
def Obligations.CommandsRunWhenOperandsWritten : Prop :=
  ∀ (i : Instr) (s : State),
    ((∃ t, exec i s = .next t) ↔
      match i with
      | .enc _ l sp => (sp = true ∧ s.spl = some 0) ∨
          (s.num ≠ none ∧ (l = true → s.len ≠ none) ∧ (sp = true → s.spl ≠ none))
      | .dec _ | .decx _ | .norm _ | .valid _ => ∃ x, HoldsIn s x) ∧
    ((¬∃ t, exec i s = .next t) → ∃ r, exec i s = .refused (.operandUnwritten r))

/-- R18: the five codes of STATUS; no outcome has a code 5, 6 or 7. -/
def Obligations.StatusCodes : Prop :=
  statusCode .ok = 0#3 ∧ statusCode .noResult = 1#3 ∧ statusCode .malformedInput = 2#3 ∧ statusCode .invalidOption = 3#3 ∧
  statusCode .illegalCmd = 4#3 ∧ ∀ x : Status, (statusCode x).toNat < 5

/-! ### Invariant and reset -/

/-- Every step keeps the invariant: both buffers canonical, OBUF exactly its OLEN cells, and exactly one result register with a
value where STATUS = OK, none where it is not (R18, R20, R24, R36). -/
def Obligations.StepKeepsInvariant : Prop := ∀ s t : State, StateInv s → step s = .next t → StateInv t

/-- The state after reset meets the invariant. -/
def Obligations.ResetMeetsInvariant : Prop := StateInv State.reset

/-- R28: after reset no register and no buffer cell holds a value and nothing is pending; a command is then refused (R28, R109,
U8), and a host read of any register too. That a host read of STATUS, VAL, FLG or OLEN is refused, of the two ways R20 allows ("a
model faults or refuses the read"), is the model's choice (log entry 2); that a read of CMD has no meaning is R17. -/
def Obligations.ResetHoldsNoValue : Prop :=
  State.reset.num = none ∧ State.reset.len = none ∧ State.reset.spl = none ∧ State.reset.ilen = none ∧
  State.reset.cmd = none ∧ State.reset.status = none ∧ State.reset.val = none ∧ State.reset.flg = none ∧
  State.reset.olen = none ∧ State.reset.pending = [] ∧ (∀ j : Nat, State.reset.ibuf.read j = none ∧ State.reset.obuf.read j = none) ∧
  (∀ r : HostReg, ∃ e, perform (.rd r) State.reset = .refused e) ∧
  (∀ i : Instr, ∃ r, exec i State.reset = .refused (.operandUnwritten r))

/-- R106: the host may reset between any two of its actions; the state is then the reset state, the host's further actions
still pending (that they stay pending is the model's choice, log entry 15). -/
def Obligations.ResetActionResets : Prop :=
  ∀ (s : State) (q : List HostAction), s.pending = .reset :: q → step s = .next { State.reset with pending := q }

/-! ### The host interface -/

/-- The host's writes of the operand registers and of one IBUF cell, with their frames (R13, R23, R55). -/
def Obligations.HostWrites : Prop :=
  ∀ (s : State) (q : List HostAction) (n i : Nat) (c : Chr),
    (s.pending = .wrNum n :: q → step s = .next { s with pending := q, num := some n }) ∧
    (s.pending = .wrLen n :: q → step s = .next { s with pending := q, len := some n }) ∧
    (s.pending = .wrSpl n :: q → step s = .next { s with pending := q, spl := some n }) ∧
    (s.pending = .wrIlen n :: q → step s = .next { s with pending := q, ilen := some n }) ∧
    (s.pending = .wrCell i c :: q →
      ∃ m, step s = .next { s with pending := q, ibuf := m } ∧ ∀ j : Nat, m.read j = if j = i then some c else s.ibuf.read j)

/-- `WRS` is the write of the string cell by cell from index 0 and of its length to ILEN (R55), and makes it the input string;
the cells above keep what they held (log entry 14). -/
def Obligations.WrsIsCellWrites : Prop :=
  ∀ (s : State) (x : Str), ∃ t, perform (.wrs x) s = .next t ∧
    performAll ((x.zipIdx.map fun p => HostAction.wrCell p.2 p.1) ++ [.wrIlen x.length]) s = .next t ∧
    HoldsIn t x ∧ ∀ j : Nat, x.length ≤ j → t.ibuf.read j = s.ibuf.read j

/-- The host's reads of registers and of one OBUF cell: the register's content where it holds a value, refused where it holds
none (R20, R111), never a meaning for CMD (R17); a read changes nothing else (R38). That a read of a cell at or above OLEN stops
with the fault noSuchCell is the model's choice (log entry 11; R24 and R31 name no fault), and so is the refusal, of the two
ways R20 allows, where a register holds no value (log entry 2). -/
def Obligations.HostReads : Prop :=
  ∀ (s : State) (q : List HostAction),
    (s.pending = .rd .status :: q →
      (∀ x, s.status = some x → step s = .next { s with pending := q, rdata := some (.status x) }) ∧
      (s.status = none → step s = .refused (.noValue .status))) ∧
    (s.pending = .rd .val :: q →
      (∀ n, s.val = some n → step s = .next { s with pending := q, rdata := some (.num n) }) ∧
      (s.val = none → step s = .refused (.noValue .val))) ∧
    (s.pending = .rd .flg :: q →
      (∀ b, s.flg = some b → step s = .next { s with pending := q, rdata := some (.bit b) }) ∧
      (s.flg = none → step s = .refused (.noValue .flg))) ∧
    (s.pending = .rd .olen :: q →
      (∀ n, s.olen = some n → step s = .next { s with pending := q, rdata := some (.num n) }) ∧
      (s.olen = none → step s = .refused (.noValue .olen))) ∧
    (s.pending = .rd .cmd :: q → step s = .refused .cmdWriteOnly) ∧
    (∀ i : Nat, s.pending = .rdCell i :: q →
      (s.olen = none → step s = .refused (.noValue .olen)) ∧
      (∀ x, HoldsOut s x →
        (∀ c, x[i]? = some c → step s = .next { s with pending := q, rdata := some (.chr c) }) ∧
        (x.length ≤ i → step s = .fault (.noSuchCell i))))

/-- `RDS` gives the host the whole output string (R55). Where OBUF and OLEN hold no value it is refused: R20 has a model fault or
refuse the read, and the refusal is the model's choice (log entry 2). -/
def Obligations.RdsReadsWholeString : Prop :=
  ∀ (s : State) (q : List HostAction), s.pending = .rds :: q →
    (∀ x, HoldsOut s x → step s = .next { s with pending := q, rdata := some (.str x) }) ∧
    (s.olen = none → step s = .refused (.noValue .olen))

/-- R56: the document's calls, as the host actions they expand to, give from every state the result the document names. -/
def Obligations.DocumentCallsReturnResults : Prop :=
  ∀ (s : State) (c : Bool) (x : Str),
    (∀ (n : Nat) (len spl : Option Nat), spl ≠ some 0 →
      ∃ t, performAll (callEncode n len spl c) s = .next t ∧ t.rdata = some (.str (encString b32c c len spl n))) ∧
    (∀ n : Nat, ∃ t, performAll (callEncodeUnknownKey n) s = .next t ∧ t.rdata = some (.status .invalidOption)) ∧
    (∃ t u, performDecode x c s = .next t ∧ performDecodeOrFault x c s = .next u ∧
      ((∃ n, decString b32c c x = .ok (some n) ∧ t.status = some .ok ∧ t.rdata = some (.num n) ∧
          u.status = some .ok ∧ u.rdata = some (.num n)) ∨
        (decString b32c c x = .ok none ∧ t.rdata = some (.status .noResult) ∧ t.val = none ∧
          u.rdata = some (.status .malformedInput) ∧ u.val = none))) ∧
    (∃ t, performAll (callNormalize x c) s = .next t ∧ t.rdata = some (.str (normString b32c c x))) ∧
    (∃ t, performAll (callValid x c) s = .next t ∧ t.rdata = some (.bit (validFlag (normString b32c c x))))

/-! ### Tables and datapath units -/

/-- R60 and R61: the main and the combined decode table, for every content that meets `Config.wellFormed`: exactly 35 and 40
keys, and their values. Beside R58 it asks of CHKSYM what the model reads from R61 and R62 (log entry 21). -/
def Obligations.DecodeTableKeys : Prop :=
  ∀ cfg : Config, cfg.wellFormed = true →
    (∀ v, v < 32 → decm cfg (alphaSym cfg v) = some v) ∧
    decm cfg (chr 'I') = some 1 ∧ decm cfg (chr 'L') = some 1 ∧ decm cfg (chr 'O') = some 0 ∧
    (∃ keys : List Chr, keys.Nodup ∧ keys.length = 35 ∧ ∀ c, (decm cfg c ≠ none ↔ c ∈ keys)) ∧
    (∀ c v, decm cfg c = some v → decc cfg c = some v) ∧
    (∀ j, j < 5 → decc cfg (comb cfg (32 + j)) = some (32 + j)) ∧
    (∃ keys : List Chr, keys.Nodup ∧ keys.length = 40 ∧ ∀ c, (decc cfg c ≠ none ↔ c ∈ keys))

/-- R62: the four properties of the decode tables, for every content that meets `Config.wellFormed`. Beside R58 it asks of CHKSYM
what the model reads from R61 and R62 (log entry 21). -/
def Obligations.DecodeTableProperties : Prop :=
  (∀ cfg : Config, cfg.wellFormed = true →
    (∀ v, v < 32 → decm cfg (alphaSym cfg v) = some v) ∧
    (∀ c v, decm cfg c = some v →
      (c ∈ cfg.alpha → alphaSym cfg v = c) ∧ (c = chr 'I' ∨ c = chr 'L' → alphaSym cfg v = chr '1') ∧
      (c = chr 'O' → alphaSym cfg v = chr '0')) ∧
    (∀ c, (0x61 ≤ c.toNat ∧ c.toNat ≤ 0x7A) ∨ c = hyphen ∨ c = invalidMark → decm cfg c = none ∧ decc cfg c = none)) ∧
  decc b32c (chr 'U') = some 36 ∧ decm b32c (chr 'U') = none

/-- R63: the 256-entry ROM form holds what the decode tables say, with 40 entries that hit the combined table. -/
def Obligations.RomFormMatchesTables : Prop :=
  (∀ c : Chr, romEntry c =
    ⟨(decm b32c c).isSome, (decc b32c c).isSome, BitVec.ofNat 6 ((decc b32c c).getD 0)⟩) ∧
  ((List.range 256).countP fun n => (romEntry (BitVec.ofNat 8 n)).hc) = 40

/-- R66: the properties of CLEAN. R65: the case fold, the 26 letters and every other code, and that codes 0x80 to 0xFF are no
symbols and are not changed. R64: CLEAN itself, the hyphens deleted and the rest folded, in order. -/
def Obligations.CleanProperties : Prop :=
  (∀ c : Chr, (0x61 ≤ c.toNat ∧ c.toNat ≤ 0x7A → (up c).toNat = c.toNat - 0x20) ∧
    (¬(0x61 ≤ c.toNat ∧ c.toNat ≤ 0x7A) → up c = c) ∧
    (0x80 ≤ c.toNat → c ∉ b32c.alpha ∧ c ∉ b32c.chksym ∧ up c = c)) ∧
  (∀ s : Str, clean s = s.flatMap fun c => if c = chr '-' then [] else [up c]) ∧
  (∀ s : Str, (clean s).length + s.count (chr '-') = s.length) ∧ (∀ s : Str, clean (clean s) = clean s) ∧
  (∀ s : Str, (s.map up).filter (fun c => c != chr '-') = clean s) ∧ clean [] = [] ∧
  (∀ s : Str, (∀ c ∈ s, c = chr '-') → clean s = [])

/-- R67: PART5 has the least number of groups, at least one, and group by group the value the rule gives; for n > 0 the first
group is not 0. -/
def Obligations.Part5Groups : Prop :=
  ∀ n : Nat, ∃ k, (part5 n).length = k ∧ (n = 0 → k = 1) ∧ (0 < n → n < 32 ^ k ∧ ∀ j, n < 32 ^ j → k ≤ j) ∧
    (∀ i, i < k → (part5 n)[i]? = some (n / 32 ^ (k - 1 - i) % 32)) ∧ (0 < n → (part5 n).head? ≠ some 0)

/-- R68: the shift-register loop computes PART5, and the lengths the rule gives. -/
def Obligations.Part5IterativeForm : Prop :=
  ∀ n : Nat, part5Iter n = part5 n ∧ (n < 32 → (part5 n).length = 1) ∧ (32 ≤ n → n ≤ 1023 → (part5 n).length = 2)

/-- R70: the laws of ASM5, and that its step is a shift by 5 whose vacated bits take the next value without a carry. -/
def Obligations.Asm5Laws : Prop :=
  (∀ n : Nat, asm5 (part5 n) = n) ∧ (∀ v : List Nat, asm5 (0 :: v) = asm5 v) ∧
  (∀ (v : List Nat) (x : Nat), asm5 (v ++ [x]) = 32 * asm5 v + x) ∧
  (∀ v : List Nat, (∀ x ∈ v, x < 32) → asm5 v < 32 ^ v.length) ∧
  (∀ a x : Nat, x < 32 → a * 32 + x = a <<< 5 ||| x)

/-- R72: the recurrence over the groups of n, most significant first, computes n mod 37, and over the values of any body it
computes the remainder of the assembled number; the intermediate value fits 11 bits. -/
def Obligations.Mod37IterativeForm : Prop :=
  (∀ n : Nat, mod37Iter n = mod37 n) ∧
  (∀ v : List Nat, v.foldl (fun r g => (r * 32 + g) % 37) 0 = mod37 (asm5 v)) ∧
  ∀ r g : Nat, r < 37 → g < 32 → r * 32 + g ≤ 1183 ∧ r * 32 + g < 2 ^ 11

/-- R73: PAD left-pads with the zero symbol and never shortens. -/
def Obligations.PadForm : Prop :=
  ∀ (cfg : Config) (s : Str) (m : Nat),
    (s.length < m → pad cfg s m = List.replicate (m - s.length) (alphaSym cfg 0) ++ s) ∧
    (m ≤ s.length → pad cfg s m = s) ∧ (pad cfg s m).length = max s.length m

/-- R74: HYPH in the index form of the rule, and as the pieces of k characters cut from the right and joined with hyphens. -/
def Obligations.HyphForm : Prop :=
  ∀ (s : Str) (k : Nat), 1 ≤ k →
    hyph s k = (s.zipIdx.flatMap fun p =>
      p.1 :: (if 0 < s.length - 1 - p.2 ∧ (s.length - 1 - p.2) % k = 0 then [chr '-'] else [])) ∧
    (s ≠ [] → ∃ (first : Str) (pieces : List Str),
      s = first ++ pieces.flatten ∧ hyph s k = first ++ pieces.flatMap (fun p => chr '-' :: p) ∧
      1 ≤ first.length ∧ first.length ≤ k ∧ ∀ p ∈ pieces, p.length = k)

/-- R75: the position counter computes HYPH. -/
def Obligations.HyphIterativeForm : Prop := ∀ (s : Str) (k : Nat), 1 ≤ k → hyphIter s k = hyph s k

/-- R76: the properties of HYPH. -/
def Obligations.HyphProperties : Prop :=
  ∀ (s : Str) (k : Nat), 1 ≤ k →
    ((hyph s k).count (chr '-') = s.count (chr '-') + (s.length - 1) / k) ∧
    ((hyph s k).length = s.length + (s.length - 1) / k) ∧ hyph [] k = [] ∧ (s.length ≤ k → hyph s k = s) ∧
    clean (hyph s k) = clean s

/-- R8 and R40: for a finite W or LMAX a command that answers, answers what it answers with both unbounded; where an operand,
the input string or a result does not fit it is refused; where everything fits it answers. That ILEN and OLEN are bounded by W
too, and by both bounds, is the model's reading of R9 and R13 (log entry 8). -/
def Obligations.FiniteParametersRefuse : Prop :=
  ∀ (cfg : Config) (c l sp : Bool) (s : State) (r : Result),
    let big := { cfg with width := none, lmax := none }
    (encResult cfg c l sp s = .ok r → encResult big c l sp s = .ok r) ∧
    (decResult cfg c s = .ok r → decResult big c s = .ok r) ∧ (decxResult cfg c s = .ok r → decxResult big c s = .ok r) ∧
    (normResult cfg c s = .ok r → normResult big c s = .ok r) ∧
    (validResult cfg c s = .ok r → validResult big c s = .ok r) ∧
    (∀ x, encResult big c l sp s = .ok (.str x) →
      (fitsLen cfg x.length = false ∨ fitsNum cfg x.length = false → ∃ e, encResult cfg c l sp s = .error e) ∧
      (∀ n, s.num = some n → fitsNum cfg n = false → ∃ e, encResult cfg c l sp s = .error e) ∧
      (∀ m, l = true → s.len = some m → fitsNum cfg m = false → ∃ e, encResult cfg c l sp s = .error e) ∧
      (∀ k, sp = true → s.spl = some k → fitsNum cfg k = false → ∃ e, encResult cfg c l sp s = .error e) ∧
      (∀ n, s.num = some n → fitsNum cfg n = true → fitsNum cfg x.length = true → fitsLen cfg x.length = true →
        (∀ m, l = true → s.len = some m → fitsNum cfg m = true) →
        (∀ k, sp = true → s.spl = some k → fitsNum cfg k = true) → encResult cfg c l sp s = .ok (.str x))) ∧
    (∀ m, s.ilen = some m →
      (fitsLen cfg m = false ∨ fitsNum cfg m = false →
        (∃ e, decResult cfg c s = .error e) ∧ (∃ e, decxResult cfg c s = .error e) ∧
        (∃ e, normResult cfg c s = .error e) ∧ (∃ e, validResult cfg c s = .error e)) ∧
      (fitsLen cfg m = true → fitsNum cfg m = true →
        (∀ n, fitsNum cfg n = true →
          (decResult big c s = .ok (.num n) → decResult cfg c s = .ok (.num n)) ∧
          (decxResult big c s = .ok (.num n) → decxResult cfg c s = .ok (.num n))) ∧
        (cfg.wellFormed = true → fitsNum cfg 31 = true →
          normResult cfg c s = normResult big c s ∧ validResult cfg c s = validResult big c s) ∧
        (cfg.wellFormed = true → fitsNum cfg 36 = true → fitsNum cfg (32 ^ m) = true →
          decResult cfg c s = decResult big c s ∧ decxResult cfg c s = decxResult big c s))) ∧
    (∀ n, fitsNum cfg n = false →
      (decResult big c s = .ok (.num n) → ∃ e, decResult cfg c s = .error e) ∧
      (decxResult big c s = .ok (.num n) → ∃ e, decxResult cfg c s = .error e))
end

