-- ==== Sys2Proof/Laws/Datapath.lean ====
section
/-! SUPPORT. The datapath functions on their cases, and what the decoding loop answers on this hardware. -/

namespace Sys2Proof.Machine

@[simp] theorem clean_nil : clean [] = [] := rfl

@[simp] theorem clean_cons (c : Chr) (s : Str) : clean (c :: s) = if c = hyphen then clean s else up c :: clean s := by
  by_cases h : c = hyphen <;> simp [clean, h]

@[simp] theorem clean_append (s t : Str) : clean (s ++ t) = clean s ++ clean t := by simp [clean]

@[simp] theorem splitLast_nil : splitLast [] = none := rfl

@[simp] theorem splitLast_append_singleton (b : Str) (k : Chr) : splitLast (b ++ [k]) = some (b, k) := by
  simp [splitLast]

@[simp] theorem hyph_nil (k : Nat) : hyph [] k = [] := rfl

theorem hyph_cons (c : Chr) (s : Str) (k : Nat) :
    hyph (c :: s) k = if 0 < s.length ∧ s.length % k = 0 then c :: hyphen :: hyph s k else c :: hyph s k := rfl

/-- The decoding loop where every character of the body is a key of DECM: the accumulation of R69 from acc. -/
theorem decLoop_of_values (t : Str) (v : List Nat) (acc : Nat) (h : t.map (decm b32c) = v.map some) :
    decLoop b32c acc t = .ok (some (v.foldl (fun acc x => acc * radix + x) acc)) := by
  induction t generalizing v acc with
  | nil =>
    cases v with
    | nil => rfl
    | cons x v => simp at h
  | cons c t ih =>
    cases v with
    | nil => simp at h
    | cons x v =>
      simp only [List.map_cons, List.cons.injEq] at h
      simp only [decLoop, h.1, List.foldl_cons]
      exact ih v (acc * radix + x) h.2

/-- The decoding loop where some character of the body is not a key of DECM (R83). -/
theorem decLoop_of_miss (t : Str) (acc : Nat) (h : ∃ c ∈ t, decm b32c c = none) : decLoop b32c acc t = .ok none := by
  induction t generalizing acc with
  | nil => simp at h
  | cons c t ih =>
    cases h1 : decm b32c c with
    | none => simp [decLoop, h1]
    | some v =>
      simp only [decLoop, h1]
      refine ih _ ?_
      obtain ⟨d, hd, h2⟩ := h
      rcases List.mem_cons.1 hd with rfl | hd
      · rw [h1] at h2
        exact absurd h2 (by simp)
      · exact ⟨d, hd, h2⟩

/-- Either every character of a string is a key of a decode table or some character is none. -/
theorem values_or_miss (f : Chr → Option Nat) (t : Str) : (∃ v : List Nat, t.map f = v.map some) ∨ ∃ c ∈ t, f c = none := by
  induction t with
  | nil => exact .inl ⟨[], rfl⟩
  | cons c t ih =>
    cases h : f c with
    | none => exact .inr ⟨c, by simp, h⟩
    | some x =>
      rcases ih with ⟨v, hv⟩ | ⟨d, hd, h1⟩
      · exact .inl ⟨x :: v, by simp [h, hv]⟩
      · exact .inr ⟨d, by simp [hd], h1⟩

end Sys2Proof.Machine
end

