-- ==== Sys2Proof/Laws/Decode.lean ====
section
/-! SUPPORT. The fields of a word, and each case of the decoding procedure of spec/30_encoding.md R53. -/

namespace Sys2Proof

@[simp] theorem CmdFields.ofWord_rsv (w : BitVec 8) : (CmdFields.ofWord w).rsv = w.extractLsb' 6 2 := rfl
@[simp] theorem CmdFields.ofWord_s (w : BitVec 8) : (CmdFields.ofWord w).s = w.getLsbD 5 := rfl
@[simp] theorem CmdFields.ofWord_l (w : BitVec 8) : (CmdFields.ofWord w).l = w.getLsbD 4 := rfl
@[simp] theorem CmdFields.ofWord_c (w : BitVec 8) : (CmdFields.ofWord w).c = w.getLsbD 3 := rfl
@[simp] theorem CmdFields.ofWord_op (w : BitVec 8) : (CmdFields.ofWord w).op = w.extractLsb' 0 3 := rfl

/-- The first check: OP encodes no command. -/
theorem decodeFields_of_op {f : CmdFields} (h : 5 ≤ f.op.toNat) : decodeFields f = .error .illegalCmd := by
  rw [decodeFields, if_pos h]

/-- The second check: RSV is not 00. -/
theorem decodeFields_of_rsv {f : CmdFields} (h1 : f.op.toNat < 5) (h2 : f.rsv ≠ 0#2) :
    decodeFields f = .error .invalidOption := by
  rw [decodeFields, if_neg (by omega), if_pos h2]

/-- The third check: L or S on a command other than ENC. -/
theorem decodeFields_of_option {f : CmdFields} (h1 : f.op.toNat < 5) (h2 : f.op ≠ 0#3) (h3 : f.l = true ∨ f.s = true) :
    decodeFields f = .error .invalidOption := by
  rw [decodeFields, if_neg (by omega), if_pos (⟨h2, h3⟩ : _ ∧ _)]
  split <;> rfl

/-- All checks passed: the command that OP selects. -/
theorem decodeFields_of_checks {f : CmdFields} (h1 : f.op.toNat < 5) (h2 : f.rsv = 0#2)
    (h3 : f.op = 0#3 ∨ (f.l = false ∧ f.s = false)) : decodeFields f = .ok (selectOp f) := by
  have h4 : ¬(f.op ≠ 0#3 ∧ (f.l = true ∨ f.s = true)) := by
    rintro ⟨h5, h6⟩
    rcases h3 with h3 | h3
    · exact h5 h3
    · simp [h3] at h6
  rw [decodeFields, if_neg (by omega), if_neg (by simpa using h2), if_neg h4]

end Sys2Proof
end

