-- ==== Sys2Proof/Laws/Memory.lean ====
section
/-! SUPPORT. The laws of a string buffer: a read after a write, and the canonical form kept by every operation. -/

namespace Sys2Proof.Machine

@[simp] theorem Memory.read_nil (i : Nat) : Memory.read [] i = none := rfl

@[simp] theorem Memory.read_cons (a : Nat) (c : Chr) (m : Memory) (i : Nat) :
    Memory.read ((a, c) :: m) i = if a = i then some c else Memory.read m i := rfl

/-- A read after a write: the character written at its index, what stood there before elsewhere. -/
theorem Memory.read_write (m : Memory) (i j : Nat) (c : Chr) :
    (Memory.write m i c).read j = if i = j then some c else m.read j := by
  induction m with
  | nil => simp [Memory.write]
  | cons p m ih =>
    obtain ⟨a, b⟩ := p
    by_cases h1 : i < a
    · simp [Memory.write, h1]
    · by_cases h2 : i = a
      · subst h2
        by_cases h3 : i = j <;> simp [Memory.write, h3]
      · simp only [Memory.write, h1, h2, if_false, Memory.read_cons, ih]
        by_cases h3 : a = j
        · have h4 : i ≠ j := by omega
          simp [h3, h4]
        · simp [h3]

@[simp] theorem Memory.read_write_same (m : Memory) (i : Nat) (c : Chr) : (Memory.write m i c).read i = some c := by
  simp [Memory.read_write]

theorem Memory.read_write_other (m : Memory) {i j : Nat} (c : Chr) (h : i ≠ j) : (Memory.write m i c).read j = m.read j := by
  simp [Memory.read_write, h]

/-- The indices of a buffer after a write: the written one and those before. -/
theorem Memory.mem_keys_write (m : Memory) (i : Nat) (c : Chr) (j : Nat) :
    j ∈ (Memory.write m i c).map Prod.fst ↔ j = i ∨ j ∈ m.map Prod.fst := by
  induction m with
  | nil => simp [Memory.write]
  | cons p m ih =>
    obtain ⟨a, b⟩ := p
    by_cases h1 : i < a
    · simp [Memory.write, h1]
    · by_cases h2 : i = a
      · subst h2
        simp [Memory.write]
      · simp only [Memory.write, h1, h2, if_false, List.map_cons, List.mem_cons, ih]
        tauto

/-- A write keeps the canonical form. -/
theorem Memory.wf_write {m : Memory} (h : m.wf) (i : Nat) (c : Chr) : (Memory.write m i c).wf := by
  induction m with
  | nil => simp [Memory.write, Memory.wf]
  | cons p m ih =>
    obtain ⟨a, b⟩ := p
    simp only [Memory.wf, List.map_cons, List.pairwise_cons] at h
    by_cases h1 : i < a
    · simp only [Memory.wf, Memory.write, h1, if_true, List.map_cons, List.pairwise_cons, List.mem_cons]
      refine ⟨?_, h⟩
      rintro j (rfl | hj)
      · exact h1
      · exact lt_trans h1 (h.1 j hj)
    · by_cases h2 : i = a
      · subst h2
        simpa [Memory.wf, Memory.write] using h
      · simp only [Memory.wf, Memory.write, h1, h2, if_false, List.map_cons, List.pairwise_cons]
        refine ⟨fun j hj => ?_, ih h.2⟩
        rcases (Memory.mem_keys_write m i c j).1 hj with rfl | hj
        · omega
        · exact h.1 j hj

@[simp] theorem Memory.writeString_nil (m : Memory) (i : Nat) : Memory.writeString m i [] = m := rfl

@[simp] theorem Memory.writeString_cons (m : Memory) (i : Nat) (c : Chr) (t : Str) :
    Memory.writeString m i (c :: t) = Memory.writeString (Memory.write m i c) (i + 1) t := rfl

/-- A whole-string write keeps the canonical form. -/
theorem Memory.wf_writeString {m : Memory} (h : m.wf) (i : Nat) (t : Str) : (Memory.writeString m i t).wf := by
  induction t generalizing m i with
  | nil => exact h
  | cons c t ih => exact ih (Memory.wf_write h i c) (i + 1)

/-- A read after a whole-string write at i: t[j - i] at the cells written, what stood there before elsewhere. -/
theorem Memory.read_writeString (m : Memory) (i : Nat) (t : Str) (j : Nat) :
    (Memory.writeString m i t).read j = if i ≤ j ∧ j < i + t.length then t[j - i]? else m.read j := by
  induction t generalizing m i with
  | nil =>
    have h : ¬(i ≤ j ∧ j < i + 0) := by omega
    simp only [Memory.writeString_nil, List.length_nil, if_neg h]
  | cons c t ih =>
    rw [Memory.writeString_cons, ih, Memory.read_write]
    by_cases h1 : i = j
    · subst h1
      have h2 : ¬(i + 1 ≤ i ∧ i < i + 1 + t.length) := by omega
      simp
    · by_cases h2 : i + 1 ≤ j ∧ j < i + 1 + t.length
      · have h3 : i ≤ j ∧ j < i + (c :: t).length := by simp only [List.length_cons]; omega
        have h4 : j - i = (j - (i + 1)) + 1 := by omega
        rw [if_pos h2, if_pos h3, h4, List.getElem?_cons_succ]
      · have h3 : ¬(i ≤ j ∧ j < i + (c :: t).length) := by simp only [List.length_cons]; omega
        rw [if_neg h2, if_neg h3, if_neg h1]

/-- The empty buffer after a whole-string write holds exactly the string. -/
theorem Memory.read_writeString_empty (t : Str) (j : Nat) : (Memory.writeString [] 0 t).read j = t[j]? := by
  rw [Memory.read_writeString]
  by_cases h : j < t.length
  · simp [h]
  · simp only [Nat.zero_le, Nat.zero_add, h, and_false, if_false, Memory.read_nil]
    exact (List.getElem?_eq_none (by omega)).symm

/-- The indices of a buffer after a whole-string write. -/
theorem Memory.mem_keys_writeString (m : Memory) (i : Nat) (t : Str) (j : Nat) :
    j ∈ (Memory.writeString m i t).map Prod.fst ↔ (i ≤ j ∧ j < i + t.length) ∨ j ∈ m.map Prod.fst := by
  induction t generalizing m i with
  | nil => simp
  | cons c t ih =>
    rw [Memory.writeString_cons, ih, Memory.mem_keys_write]
    simp only [List.length_cons]
    constructor
    · rintro (h | rfl | h)
      · exact .inl (by omega)
      · exact .inl (by omega)
      · exact .inr h
    · rintro (h | h)
      · by_cases h1 : j = i
        · exact .inr (.inl h1)
        · exact .inl (by omega)
      · exact .inr (.inr h)

/-- The empty buffer after a whole-string write lists the cells below the string's length, in order. -/
theorem Memory.keys_writeString_empty (t : Str) : (Memory.writeString [] 0 t).map Prod.fst = List.range t.length := by
  have hwf : (Memory.writeString [] 0 t).wf := Memory.wf_writeString (m := []) (by simp [Memory.wf]) 0 t
  refine List.Perm.eq_of_pairwise (le := (· < ·)) (fun a b _ _ h1 h2 => absurd h1 (by omega)) hwf
    List.pairwise_lt_range ((List.perm_ext_iff_of_nodup ?_ List.nodup_range).2 fun j => ?_)
  · exact hwf.imp (fun h => Nat.ne_of_lt h)
  · rw [Memory.mem_keys_writeString, List.mem_range]
    simp

/-- A whole-string read answers exactly when every cell holds a value, and gives those values. -/
theorem Memory.readString_eq_some (m : Memory) (i n : Nat) (t : Str) :
    m.readString i n = some t ↔ t.length = n ∧ ∀ j, j < n → m.read (i + j) = t[j]? := by
  induction n generalizing i t with
  | zero =>
    simp only [Memory.readString, Option.some.injEq]
    constructor
    · rintro rfl
      simp
    · rintro ⟨h, -⟩
      exact (List.length_eq_zero_iff.1 h).symm
  | succ n ih =>
    cases h : m.read i with
    | none =>
      simp only [Memory.readString, h, reduceCtorEq, false_iff, not_and]
      intro h1 h2
      have h3 := h2 0 (by omega)
      rw [Nat.add_zero, h, eq_comm, List.getElem?_eq_none_iff] at h3
      omega
    | some c =>
      simp only [Memory.readString, h, Option.map_eq_some_iff]
      constructor
      · rintro ⟨u, hu, rfl⟩
        obtain ⟨h1, h2⟩ := (ih (i + 1) u).1 hu
        refine ⟨by simp [h1], fun j hj => ?_⟩
        cases j with
        | zero => simpa using h
        | succ j =>
          rw [List.getElem?_cons_succ, ← h2 j (by omega)]
          congr 1
          omega
      · rintro ⟨h1, h2⟩
        cases t with
        | nil => simp at h1
        | cons d u =>
          have h3 := h2 0 (by omega)
          rw [Nat.add_zero, h] at h3
          simp only [List.getElem?_cons_zero, Option.some.injEq] at h3
          refine ⟨u, (ih (i + 1) u).2 ⟨by simpa using h1, fun j hj => ?_⟩, by rw [h3]⟩
          have h4 := h2 (j + 1) (by omega)
          rw [List.getElem?_cons_succ] at h4
          rw [← h4]
          congr 1
          omega

end Sys2Proof.Machine
end

