-- ==== Sys2Proof/Laws/State.lean ====
section
/-! SUPPORT. What each update of the state does to each field. -/

namespace Sys2Proof.Machine

@[simp] theorem State.setNum_num (s : State) (n : Nat) : (s.setNum n).num = some n := rfl
@[simp] theorem State.setNum_len (s : State) (n : Nat) : (s.setNum n).len = s.len := rfl
@[simp] theorem State.setNum_spl (s : State) (n : Nat) : (s.setNum n).spl = s.spl := rfl
@[simp] theorem State.setNum_ilen (s : State) (n : Nat) : (s.setNum n).ilen = s.ilen := rfl
@[simp] theorem State.setNum_ibuf (s : State) (n : Nat) : (s.setNum n).ibuf = s.ibuf := rfl
@[simp] theorem State.setNum_cmd (s : State) (n : Nat) : (s.setNum n).cmd = s.cmd := rfl
@[simp] theorem State.setNum_status (s : State) (n : Nat) : (s.setNum n).status = s.status := rfl
@[simp] theorem State.setNum_val (s : State) (n : Nat) : (s.setNum n).val = s.val := rfl
@[simp] theorem State.setNum_flg (s : State) (n : Nat) : (s.setNum n).flg = s.flg := rfl
@[simp] theorem State.setNum_obuf (s : State) (n : Nat) : (s.setNum n).obuf = s.obuf := rfl
@[simp] theorem State.setNum_olen (s : State) (n : Nat) : (s.setNum n).olen = s.olen := rfl
@[simp] theorem State.setNum_pending (s : State) (n : Nat) : (s.setNum n).pending = s.pending := rfl
@[simp] theorem State.setNum_rdata (s : State) (n : Nat) : (s.setNum n).rdata = s.rdata := rfl

@[simp] theorem State.setLen_num (s : State) (n : Nat) : (s.setLen n).num = s.num := rfl
@[simp] theorem State.setLen_len (s : State) (n : Nat) : (s.setLen n).len = some n := rfl
@[simp] theorem State.setLen_spl (s : State) (n : Nat) : (s.setLen n).spl = s.spl := rfl
@[simp] theorem State.setLen_ilen (s : State) (n : Nat) : (s.setLen n).ilen = s.ilen := rfl
@[simp] theorem State.setLen_ibuf (s : State) (n : Nat) : (s.setLen n).ibuf = s.ibuf := rfl
@[simp] theorem State.setLen_cmd (s : State) (n : Nat) : (s.setLen n).cmd = s.cmd := rfl
@[simp] theorem State.setLen_status (s : State) (n : Nat) : (s.setLen n).status = s.status := rfl
@[simp] theorem State.setLen_val (s : State) (n : Nat) : (s.setLen n).val = s.val := rfl
@[simp] theorem State.setLen_flg (s : State) (n : Nat) : (s.setLen n).flg = s.flg := rfl
@[simp] theorem State.setLen_obuf (s : State) (n : Nat) : (s.setLen n).obuf = s.obuf := rfl
@[simp] theorem State.setLen_olen (s : State) (n : Nat) : (s.setLen n).olen = s.olen := rfl
@[simp] theorem State.setLen_pending (s : State) (n : Nat) : (s.setLen n).pending = s.pending := rfl
@[simp] theorem State.setLen_rdata (s : State) (n : Nat) : (s.setLen n).rdata = s.rdata := rfl

@[simp] theorem State.setSpl_num (s : State) (n : Nat) : (s.setSpl n).num = s.num := rfl
@[simp] theorem State.setSpl_len (s : State) (n : Nat) : (s.setSpl n).len = s.len := rfl
@[simp] theorem State.setSpl_spl (s : State) (n : Nat) : (s.setSpl n).spl = some n := rfl
@[simp] theorem State.setSpl_ilen (s : State) (n : Nat) : (s.setSpl n).ilen = s.ilen := rfl
@[simp] theorem State.setSpl_ibuf (s : State) (n : Nat) : (s.setSpl n).ibuf = s.ibuf := rfl
@[simp] theorem State.setSpl_cmd (s : State) (n : Nat) : (s.setSpl n).cmd = s.cmd := rfl
@[simp] theorem State.setSpl_status (s : State) (n : Nat) : (s.setSpl n).status = s.status := rfl
@[simp] theorem State.setSpl_val (s : State) (n : Nat) : (s.setSpl n).val = s.val := rfl
@[simp] theorem State.setSpl_flg (s : State) (n : Nat) : (s.setSpl n).flg = s.flg := rfl
@[simp] theorem State.setSpl_obuf (s : State) (n : Nat) : (s.setSpl n).obuf = s.obuf := rfl
@[simp] theorem State.setSpl_olen (s : State) (n : Nat) : (s.setSpl n).olen = s.olen := rfl
@[simp] theorem State.setSpl_pending (s : State) (n : Nat) : (s.setSpl n).pending = s.pending := rfl
@[simp] theorem State.setSpl_rdata (s : State) (n : Nat) : (s.setSpl n).rdata = s.rdata := rfl

@[simp] theorem State.setIlen_num (s : State) (n : Nat) : (s.setIlen n).num = s.num := rfl
@[simp] theorem State.setIlen_len (s : State) (n : Nat) : (s.setIlen n).len = s.len := rfl
@[simp] theorem State.setIlen_spl (s : State) (n : Nat) : (s.setIlen n).spl = s.spl := rfl
@[simp] theorem State.setIlen_ilen (s : State) (n : Nat) : (s.setIlen n).ilen = some n := rfl
@[simp] theorem State.setIlen_ibuf (s : State) (n : Nat) : (s.setIlen n).ibuf = s.ibuf := rfl
@[simp] theorem State.setIlen_cmd (s : State) (n : Nat) : (s.setIlen n).cmd = s.cmd := rfl
@[simp] theorem State.setIlen_status (s : State) (n : Nat) : (s.setIlen n).status = s.status := rfl
@[simp] theorem State.setIlen_val (s : State) (n : Nat) : (s.setIlen n).val = s.val := rfl
@[simp] theorem State.setIlen_flg (s : State) (n : Nat) : (s.setIlen n).flg = s.flg := rfl
@[simp] theorem State.setIlen_obuf (s : State) (n : Nat) : (s.setIlen n).obuf = s.obuf := rfl
@[simp] theorem State.setIlen_olen (s : State) (n : Nat) : (s.setIlen n).olen = s.olen := rfl
@[simp] theorem State.setIlen_pending (s : State) (n : Nat) : (s.setIlen n).pending = s.pending := rfl
@[simp] theorem State.setIlen_rdata (s : State) (n : Nat) : (s.setIlen n).rdata = s.rdata := rfl

@[simp] theorem State.setIbuf_num (s : State) (m : Memory) : (s.setIbuf m).num = s.num := rfl
@[simp] theorem State.setIbuf_len (s : State) (m : Memory) : (s.setIbuf m).len = s.len := rfl
@[simp] theorem State.setIbuf_spl (s : State) (m : Memory) : (s.setIbuf m).spl = s.spl := rfl
@[simp] theorem State.setIbuf_ilen (s : State) (m : Memory) : (s.setIbuf m).ilen = s.ilen := rfl
@[simp] theorem State.setIbuf_ibuf (s : State) (m : Memory) : (s.setIbuf m).ibuf = m := rfl
@[simp] theorem State.setIbuf_cmd (s : State) (m : Memory) : (s.setIbuf m).cmd = s.cmd := rfl
@[simp] theorem State.setIbuf_status (s : State) (m : Memory) : (s.setIbuf m).status = s.status := rfl
@[simp] theorem State.setIbuf_val (s : State) (m : Memory) : (s.setIbuf m).val = s.val := rfl
@[simp] theorem State.setIbuf_flg (s : State) (m : Memory) : (s.setIbuf m).flg = s.flg := rfl
@[simp] theorem State.setIbuf_obuf (s : State) (m : Memory) : (s.setIbuf m).obuf = s.obuf := rfl
@[simp] theorem State.setIbuf_olen (s : State) (m : Memory) : (s.setIbuf m).olen = s.olen := rfl
@[simp] theorem State.setIbuf_pending (s : State) (m : Memory) : (s.setIbuf m).pending = s.pending := rfl
@[simp] theorem State.setIbuf_rdata (s : State) (m : Memory) : (s.setIbuf m).rdata = s.rdata := rfl

@[simp] theorem State.setCmd_num (s : State) (w : BitVec 8) : (s.setCmd w).num = s.num := rfl
@[simp] theorem State.setCmd_len (s : State) (w : BitVec 8) : (s.setCmd w).len = s.len := rfl
@[simp] theorem State.setCmd_spl (s : State) (w : BitVec 8) : (s.setCmd w).spl = s.spl := rfl
@[simp] theorem State.setCmd_ilen (s : State) (w : BitVec 8) : (s.setCmd w).ilen = s.ilen := rfl
@[simp] theorem State.setCmd_ibuf (s : State) (w : BitVec 8) : (s.setCmd w).ibuf = s.ibuf := rfl
@[simp] theorem State.setCmd_cmd (s : State) (w : BitVec 8) : (s.setCmd w).cmd = some w := rfl
@[simp] theorem State.setCmd_status (s : State) (w : BitVec 8) : (s.setCmd w).status = s.status := rfl
@[simp] theorem State.setCmd_val (s : State) (w : BitVec 8) : (s.setCmd w).val = s.val := rfl
@[simp] theorem State.setCmd_flg (s : State) (w : BitVec 8) : (s.setCmd w).flg = s.flg := rfl
@[simp] theorem State.setCmd_obuf (s : State) (w : BitVec 8) : (s.setCmd w).obuf = s.obuf := rfl
@[simp] theorem State.setCmd_olen (s : State) (w : BitVec 8) : (s.setCmd w).olen = s.olen := rfl
@[simp] theorem State.setCmd_pending (s : State) (w : BitVec 8) : (s.setCmd w).pending = s.pending := rfl
@[simp] theorem State.setCmd_rdata (s : State) (w : BitVec 8) : (s.setCmd w).rdata = s.rdata := rfl

@[simp] theorem State.setStatus_num (s : State) (x : Status) : (s.setStatus x).num = s.num := rfl
@[simp] theorem State.setStatus_len (s : State) (x : Status) : (s.setStatus x).len = s.len := rfl
@[simp] theorem State.setStatus_spl (s : State) (x : Status) : (s.setStatus x).spl = s.spl := rfl
@[simp] theorem State.setStatus_ilen (s : State) (x : Status) : (s.setStatus x).ilen = s.ilen := rfl
@[simp] theorem State.setStatus_ibuf (s : State) (x : Status) : (s.setStatus x).ibuf = s.ibuf := rfl
@[simp] theorem State.setStatus_cmd (s : State) (x : Status) : (s.setStatus x).cmd = s.cmd := rfl
@[simp] theorem State.setStatus_status (s : State) (x : Status) : (s.setStatus x).status = some x := rfl
@[simp] theorem State.setStatus_val (s : State) (x : Status) : (s.setStatus x).val = s.val := rfl
@[simp] theorem State.setStatus_flg (s : State) (x : Status) : (s.setStatus x).flg = s.flg := rfl
@[simp] theorem State.setStatus_obuf (s : State) (x : Status) : (s.setStatus x).obuf = s.obuf := rfl
@[simp] theorem State.setStatus_olen (s : State) (x : Status) : (s.setStatus x).olen = s.olen := rfl
@[simp] theorem State.setStatus_pending (s : State) (x : Status) : (s.setStatus x).pending = s.pending := rfl
@[simp] theorem State.setStatus_rdata (s : State) (x : Status) : (s.setStatus x).rdata = s.rdata := rfl

@[simp] theorem State.setVal_num (s : State) (n : Nat) : (s.setVal n).num = s.num := rfl
@[simp] theorem State.setVal_len (s : State) (n : Nat) : (s.setVal n).len = s.len := rfl
@[simp] theorem State.setVal_spl (s : State) (n : Nat) : (s.setVal n).spl = s.spl := rfl
@[simp] theorem State.setVal_ilen (s : State) (n : Nat) : (s.setVal n).ilen = s.ilen := rfl
@[simp] theorem State.setVal_ibuf (s : State) (n : Nat) : (s.setVal n).ibuf = s.ibuf := rfl
@[simp] theorem State.setVal_cmd (s : State) (n : Nat) : (s.setVal n).cmd = s.cmd := rfl
@[simp] theorem State.setVal_status (s : State) (n : Nat) : (s.setVal n).status = s.status := rfl
@[simp] theorem State.setVal_val (s : State) (n : Nat) : (s.setVal n).val = some n := rfl
@[simp] theorem State.setVal_flg (s : State) (n : Nat) : (s.setVal n).flg = s.flg := rfl
@[simp] theorem State.setVal_obuf (s : State) (n : Nat) : (s.setVal n).obuf = s.obuf := rfl
@[simp] theorem State.setVal_olen (s : State) (n : Nat) : (s.setVal n).olen = s.olen := rfl
@[simp] theorem State.setVal_pending (s : State) (n : Nat) : (s.setVal n).pending = s.pending := rfl
@[simp] theorem State.setVal_rdata (s : State) (n : Nat) : (s.setVal n).rdata = s.rdata := rfl

@[simp] theorem State.setFlg_num (s : State) (b : Bool) : (s.setFlg b).num = s.num := rfl
@[simp] theorem State.setFlg_len (s : State) (b : Bool) : (s.setFlg b).len = s.len := rfl
@[simp] theorem State.setFlg_spl (s : State) (b : Bool) : (s.setFlg b).spl = s.spl := rfl
@[simp] theorem State.setFlg_ilen (s : State) (b : Bool) : (s.setFlg b).ilen = s.ilen := rfl
@[simp] theorem State.setFlg_ibuf (s : State) (b : Bool) : (s.setFlg b).ibuf = s.ibuf := rfl
@[simp] theorem State.setFlg_cmd (s : State) (b : Bool) : (s.setFlg b).cmd = s.cmd := rfl
@[simp] theorem State.setFlg_status (s : State) (b : Bool) : (s.setFlg b).status = s.status := rfl
@[simp] theorem State.setFlg_val (s : State) (b : Bool) : (s.setFlg b).val = s.val := rfl
@[simp] theorem State.setFlg_flg (s : State) (b : Bool) : (s.setFlg b).flg = some b := rfl
@[simp] theorem State.setFlg_obuf (s : State) (b : Bool) : (s.setFlg b).obuf = s.obuf := rfl
@[simp] theorem State.setFlg_olen (s : State) (b : Bool) : (s.setFlg b).olen = s.olen := rfl
@[simp] theorem State.setFlg_pending (s : State) (b : Bool) : (s.setFlg b).pending = s.pending := rfl
@[simp] theorem State.setFlg_rdata (s : State) (b : Bool) : (s.setFlg b).rdata = s.rdata := rfl

@[simp] theorem State.setOut_num (s : State) (n : Nat) (m : Memory) : (s.setOut n m).num = s.num := rfl
@[simp] theorem State.setOut_len (s : State) (n : Nat) (m : Memory) : (s.setOut n m).len = s.len := rfl
@[simp] theorem State.setOut_spl (s : State) (n : Nat) (m : Memory) : (s.setOut n m).spl = s.spl := rfl
@[simp] theorem State.setOut_ilen (s : State) (n : Nat) (m : Memory) : (s.setOut n m).ilen = s.ilen := rfl
@[simp] theorem State.setOut_ibuf (s : State) (n : Nat) (m : Memory) : (s.setOut n m).ibuf = s.ibuf := rfl
@[simp] theorem State.setOut_cmd (s : State) (n : Nat) (m : Memory) : (s.setOut n m).cmd = s.cmd := rfl
@[simp] theorem State.setOut_status (s : State) (n : Nat) (m : Memory) : (s.setOut n m).status = s.status := rfl
@[simp] theorem State.setOut_val (s : State) (n : Nat) (m : Memory) : (s.setOut n m).val = s.val := rfl
@[simp] theorem State.setOut_flg (s : State) (n : Nat) (m : Memory) : (s.setOut n m).flg = s.flg := rfl
@[simp] theorem State.setOut_obuf (s : State) (n : Nat) (m : Memory) : (s.setOut n m).obuf = m := rfl
@[simp] theorem State.setOut_olen (s : State) (n : Nat) (m : Memory) : (s.setOut n m).olen = some n := rfl
@[simp] theorem State.setOut_pending (s : State) (n : Nat) (m : Memory) : (s.setOut n m).pending = s.pending := rfl
@[simp] theorem State.setOut_rdata (s : State) (n : Nat) (m : Memory) : (s.setOut n m).rdata = s.rdata := rfl

@[simp] theorem State.clearResults_num (s : State) : s.clearResults.num = s.num := rfl
@[simp] theorem State.clearResults_len (s : State) : s.clearResults.len = s.len := rfl
@[simp] theorem State.clearResults_spl (s : State) : s.clearResults.spl = s.spl := rfl
@[simp] theorem State.clearResults_ilen (s : State) : s.clearResults.ilen = s.ilen := rfl
@[simp] theorem State.clearResults_ibuf (s : State) : s.clearResults.ibuf = s.ibuf := rfl
@[simp] theorem State.clearResults_cmd (s : State) : s.clearResults.cmd = s.cmd := rfl
@[simp] theorem State.clearResults_status (s : State) : s.clearResults.status = s.status := rfl
@[simp] theorem State.clearResults_val (s : State) : s.clearResults.val = none := rfl
@[simp] theorem State.clearResults_flg (s : State) : s.clearResults.flg = none := rfl
@[simp] theorem State.clearResults_obuf (s : State) : s.clearResults.obuf = [] := rfl
@[simp] theorem State.clearResults_olen (s : State) : s.clearResults.olen = none := rfl
@[simp] theorem State.clearResults_pending (s : State) : s.clearResults.pending = s.pending := rfl
@[simp] theorem State.clearResults_rdata (s : State) : s.clearResults.rdata = s.rdata := rfl

@[simp] theorem State.setPending_num (s : State) (q : List HostAction) : (s.setPending q).num = s.num := rfl
@[simp] theorem State.setPending_len (s : State) (q : List HostAction) : (s.setPending q).len = s.len := rfl
@[simp] theorem State.setPending_spl (s : State) (q : List HostAction) : (s.setPending q).spl = s.spl := rfl
@[simp] theorem State.setPending_ilen (s : State) (q : List HostAction) : (s.setPending q).ilen = s.ilen := rfl
@[simp] theorem State.setPending_ibuf (s : State) (q : List HostAction) : (s.setPending q).ibuf = s.ibuf := rfl
@[simp] theorem State.setPending_cmd (s : State) (q : List HostAction) : (s.setPending q).cmd = s.cmd := rfl
@[simp] theorem State.setPending_status (s : State) (q : List HostAction) : (s.setPending q).status = s.status := rfl
@[simp] theorem State.setPending_val (s : State) (q : List HostAction) : (s.setPending q).val = s.val := rfl
@[simp] theorem State.setPending_flg (s : State) (q : List HostAction) : (s.setPending q).flg = s.flg := rfl
@[simp] theorem State.setPending_obuf (s : State) (q : List HostAction) : (s.setPending q).obuf = s.obuf := rfl
@[simp] theorem State.setPending_olen (s : State) (q : List HostAction) : (s.setPending q).olen = s.olen := rfl
@[simp] theorem State.setPending_pending (s : State) (q : List HostAction) : (s.setPending q).pending = q := rfl
@[simp] theorem State.setPending_rdata (s : State) (q : List HostAction) : (s.setPending q).rdata = s.rdata := rfl

@[simp] theorem State.setRdata_num (s : State) (d : HostDatum) : (s.setRdata d).num = s.num := rfl
@[simp] theorem State.setRdata_len (s : State) (d : HostDatum) : (s.setRdata d).len = s.len := rfl
@[simp] theorem State.setRdata_spl (s : State) (d : HostDatum) : (s.setRdata d).spl = s.spl := rfl
@[simp] theorem State.setRdata_ilen (s : State) (d : HostDatum) : (s.setRdata d).ilen = s.ilen := rfl
@[simp] theorem State.setRdata_ibuf (s : State) (d : HostDatum) : (s.setRdata d).ibuf = s.ibuf := rfl
@[simp] theorem State.setRdata_cmd (s : State) (d : HostDatum) : (s.setRdata d).cmd = s.cmd := rfl
@[simp] theorem State.setRdata_status (s : State) (d : HostDatum) : (s.setRdata d).status = s.status := rfl
@[simp] theorem State.setRdata_val (s : State) (d : HostDatum) : (s.setRdata d).val = s.val := rfl
@[simp] theorem State.setRdata_flg (s : State) (d : HostDatum) : (s.setRdata d).flg = s.flg := rfl
@[simp] theorem State.setRdata_obuf (s : State) (d : HostDatum) : (s.setRdata d).obuf = s.obuf := rfl
@[simp] theorem State.setRdata_olen (s : State) (d : HostDatum) : (s.setRdata d).olen = s.olen := rfl
@[simp] theorem State.setRdata_pending (s : State) (d : HostDatum) : (s.setRdata d).pending = s.pending := rfl
@[simp] theorem State.setRdata_rdata (s : State) (d : HostDatum) : (s.setRdata d).rdata = some d := rfl

@[simp] theorem State.reset_num : State.reset.num = none := rfl
@[simp] theorem State.reset_len : State.reset.len = none := rfl
@[simp] theorem State.reset_spl : State.reset.spl = none := rfl
@[simp] theorem State.reset_ilen : State.reset.ilen = none := rfl
@[simp] theorem State.reset_ibuf : State.reset.ibuf = [] := rfl
@[simp] theorem State.reset_cmd : State.reset.cmd = none := rfl
@[simp] theorem State.reset_status : State.reset.status = none := rfl
@[simp] theorem State.reset_val : State.reset.val = none := rfl
@[simp] theorem State.reset_flg : State.reset.flg = none := rfl
@[simp] theorem State.reset_obuf : State.reset.obuf = [] := rfl
@[simp] theorem State.reset_olen : State.reset.olen = none := rfl
@[simp] theorem State.reset_pending : State.reset.pending = [] := rfl
@[simp] theorem State.reset_rdata : State.reset.rdata = none := rfl

end Sys2Proof.Machine
end

