-- ==== Sys2Proof/Laws/Ops.lean ====
section
/-! SUPPORT. What the shared operations can do, said once: ending a command, raising a fault, reading operands, executing a
command, and performing a host action. -/

namespace Sys2Proof.Machine

@[simp] theorem nextOf_next (t : State) : nextOf (.next t) = some t := rfl

/-- Reads of the empty OBUF. -/
theorem noOut_of_obuf_nil {t : State} (h1 : t.olen = none) (h2 : t.obuf = []) : NoOut t := ⟨h1, by simp [h2]⟩

/-- Ending a command changes no operand and nothing of the host's side (R16). -/
theorem sameOperands_finish (s : State) (r : Result) : SameOperands s (s.finish r) := by
  cases r <;> exact ⟨rfl, rfl, rfl, rfl, rfl, rfl, rfl, rfl⟩

/-- Ending a command shows its outcome (R18, R20). -/
theorem shows_finish (s : State) (r : Result) : Shows (s.finish r) r := by
  cases r with
  | str x => exact ⟨rfl, ⟨rfl, fun i => Memory.read_writeString_empty x i⟩, rfl, rfl⟩
  | num n => exact ⟨rfl, rfl, rfl, rfl, fun i => rfl⟩
  | flag b => exact ⟨rfl, rfl, rfl, rfl, fun i => rfl⟩
  | noResult => exact ⟨rfl, rfl, rfl, rfl, fun i => rfl⟩
  | fault k => exact ⟨rfl, rfl, rfl, rfl, fun i => rfl⟩

/-- A command is the completion of its outcome. -/
theorem exec_eq_complete (i : Instr) (s : State) : exec i s = complete s (outcomeOf i s) := by cases i <;> rfl

/-- Everything a command can do: it ends with its outcome. -/
theorem exec_next_iff {i : Instr} {s t : State} : exec i s = .next t ↔ ∃ r, outcomeOf i s = .ok r ∧ t = s.finish r := by
  rw [exec_eq_complete]
  cases h : outcomeOf i s with
  | ok r => simp [complete, eq_comm]
  | error e => simp [complete]

/-- A command that has no meaning is refused, for the reason its outcome gives. -/
theorem exec_refused_iff {i : Instr} {s : State} {e : Refusal} : exec i s = .refused e ↔ outcomeOf i s = .error e := by
  rw [exec_eq_complete]
  cases h : outcomeOf i s with
  | ok r => simp [complete]
  | error e' => simp [complete]

/-- A command ends with its outcome. -/
theorem ends_of_outcomeOf {i : Instr} {s : State} {r : Result} (h : outcomeOf i s = .ok r) : Ends i s r :=
  ⟨s.finish r, exec_next_iff.2 ⟨r, h, rfl⟩, shows_finish s r, sameOperands_finish s r⟩

/-- The next state after a command determines its outcome. -/
theorem shows_inj {t : State} {r r' : Result} (h : Shows t r) (h' : Shows t r') : r = r' := by
  cases r with
  | str x =>
    cases r' with
    | str y =>
      obtain ⟨-, ⟨-, h1⟩, -⟩ := h
      obtain ⟨-, ⟨-, h2⟩, -⟩ := h'
      rw [List.ext_getElem? fun i => (h1 i).symm.trans (h2 i)]
    | num n => exact absurd (h.2.2.1.symm.trans h'.2.1) (by simp)
    | flag b => exact absurd (h.2.2.2.symm.trans h'.2.1) (by simp)
    | noResult => exact absurd (h.1.symm.trans h'.1) (by simp)
    | fault k => exact absurd (h.1.symm.trans h'.1) (by cases k <;> simp [faultStatus])
  | num n =>
    cases r' with
    | str y => exact absurd (h'.2.2.1.symm.trans h.2.1) (by simp)
    | num m => rw [Option.some.inj (h.2.1.symm.trans h'.2.1)]
    | flag b => exact absurd (h'.2.2.1.symm.trans h.2.1) (by simp)
    | noResult => exact absurd (h.1.symm.trans h'.1) (by simp)
    | fault k => exact absurd (h.1.symm.trans h'.1) (by cases k <;> simp [faultStatus])
  | flag b =>
    cases r' with
    | str y => exact absurd (h'.2.2.2.symm.trans h.2.1) (by simp)
    | num m => exact absurd (h.2.2.1.symm.trans h'.2.1) (by simp)
    | flag b' => rw [Option.some.inj (h.2.1.symm.trans h'.2.1)]
    | noResult => exact absurd (h.1.symm.trans h'.1) (by simp)
    | fault k => exact absurd (h.1.symm.trans h'.1) (by cases k <;> simp [faultStatus])
  | noResult =>
    cases r' with
    | noResult => rfl
    | fault k => exact absurd (h.1.symm.trans h'.1) (by cases k <;> simp [faultStatus])
    | _ => exact absurd (h.1.symm.trans h'.1) (by simp)
  | fault k =>
    cases r' with
    | fault k' =>
      have h1 := Option.some.inj (h.1.symm.trans h'.1)
      cases k <;> cases k' <;> simp_all [faultStatus]
    | _ => exact absurd (h.1.symm.trans h'.1) (by cases k <;> simp [faultStatus])

/-- A command ends with r exactly when r is its outcome. -/
theorem ends_iff {i : Instr} {s : State} {r : Result} : Ends i s r ↔ outcomeOf i s = .ok r := by
  refine ⟨?_, ends_of_outcomeOf⟩
  rintro ⟨t, h1, h2, -⟩
  obtain ⟨r', h3, rfl⟩ := exec_next_iff.1 h1
  rw [shows_inj h2 (shows_finish s r'), h3]

@[simp] theorem fitsNum_b32c (n : Nat) : fitsNum b32c n = true := rfl

@[simp] theorem b32c_decxForwardsChecksum : b32c.decxForwardsChecksum = true := rfl

@[simp] theorem fitsLen_b32c (n : Nat) : fitsLen b32c n = true := rfl

@[simp] theorem allFit_b32c (v : Option Nat) : v.all (fitsNum b32c) = true := by cases v <;> rfl

@[simp] theorem symbolsFit_b32c (t : Str) : symbolsFit b32c t = true := by simp [symbolsFit]

@[simp] theorem readNumber_b32c (r : Operand) (v : Option Nat) : readNumber b32c r v = readOperand r v := by
  cases v <;> rfl

/-- NORM on this hardware: the normalised string of whatever input it reads. -/
theorem normResult_b32c (c : Bool) (s : State) :
    normResult b32c c s = (readIn b32c s).map fun x => .str (normString b32c c x) := by
  unfold normResult
  cases readIn b32c s <;> simp [Except.map]

/-- VALID on this hardware: the flag of that string. -/
theorem validResult_b32c (c : Bool) (s : State) :
    validResult b32c c s = (readIn b32c s).map fun x => .flag (validFlag (normString b32c c x)) := by
  unfold validResult
  cases readIn b32c s <;> simp [Except.map]

/-- The whole-string read of IN, for this hardware's unbounded LMAX (R35): it answers the string the host has written. -/
theorem readIn_eq_ok {s : State} {x : Str} : readIn b32c s = .ok x ↔ HoldsIn s x := by
  unfold readIn
  cases h : s.ilen with
  | none => simp [readOperand, HoldsIn, h]
  | some n =>
    simp only [readNumber_b32c, readOperand, fitsLen_b32c, if_true, HoldsIn, h, Option.some.injEq]
    cases h1 : s.ibuf.readString 0 n with
    | none =>
      simp only [reduceCtorEq, false_iff, not_and]
      rintro rfl h2
      have h3 := (Memory.readString_eq_some s.ibuf 0 x.length x).2 ⟨rfl, by simpa using h2⟩
      rw [h1] at h3
      exact absurd h3 (by simp)
    | some y =>
      simp only [Except.ok.injEq]
      have h2 := (Memory.readString_eq_some s.ibuf 0 n y).1 h1
      constructor
      · rintro rfl
        exact ⟨h2.1.symm, by simpa [h2.1] using h2.2⟩
      · rintro ⟨rfl, h3⟩
        have h4 := (Memory.readString_eq_some s.ibuf 0 x.length x).2 ⟨rfl, by simpa using h3⟩
        rw [h1] at h4
        exact Option.some.inj h4

/-- Why a whole-string read is refused on this hardware: ILEN or a cell below it holds no value (R28). -/
theorem readIn_eq_error {s : State} {e : Refusal} (h : readIn b32c s = .error e) :
    e = .operandUnwritten .ilen ∨ e = .operandUnwritten .ibuf := by
  unfold readIn at h
  cases h1 : s.ilen with
  | none => simp [readOperand, h1] at h; exact .inl h.symm
  | some n =>
    simp only [readNumber_b32c, readOperand, h1, fitsLen_b32c, if_true] at h
    cases h2 : s.ibuf.readString 0 n with
    | none => simp [h2] at h; exact .inr h.symm
    | some y => simp [h2] at h

/-- Everything a host action can do when it answers a next state. -/
theorem perform_next {a : HostAction} {s t : State} (h : perform a s = .next t) :
    (∃ n, a = .wrNum n ∧ t = s.setNum n) ∨ (∃ n, a = .wrLen n ∧ t = s.setLen n) ∨
    (∃ n, a = .wrSpl n ∧ t = s.setSpl n) ∨ (∃ n, a = .wrIlen n ∧ t = s.setIlen n) ∨
    (∃ i c, a = .wrCell i c ∧ t = s.setIbuf (Memory.write s.ibuf i c)) ∨
    (∃ x, a = .wrs x ∧ t = (s.setIbuf (Memory.writeString s.ibuf 0 x)).setIlen x.length) ∨
    (∃ w r, a = .wrCmd w ∧ t = (s.setCmd w).finish r) ∨
    (∃ d, (a = .rds ∨ (∃ r, a = .rd r) ∨ ∃ i, a = .rdCell i) ∧ t = s.setRdata d) ∨
    (a = .reset ∧ t = hostReset s) := by
  have deliver : ∀ {r : HostReg} {d : Option HostDatum}, hostDeliver r d s = .next t → ∃ d, t = s.setRdata d := by
    intro r d h1
    cases d with
    | none => simp [hostDeliver] at h1
    | some x => exact ⟨x, by simpa [hostDeliver] using h1.symm⟩
  cases a with
  | wrNum n => exact .inl ⟨n, rfl, by simpa [perform] using h.symm⟩
  | wrLen n => exact .inr (.inl ⟨n, rfl, by simpa [perform] using h.symm⟩)
  | wrSpl n => exact .inr (.inr (.inl ⟨n, rfl, by simpa [perform] using h.symm⟩))
  | wrIlen n => exact .inr (.inr (.inr (.inl ⟨n, rfl, by simpa [perform] using h.symm⟩)))
  | wrCell i c =>
    exact .inr (.inr (.inr (.inr (.inl ⟨i, c, rfl, by simpa [perform, hostWriteCell] using h.symm⟩))))
  | wrs x =>
    exact .inr (.inr (.inr (.inr (.inr (.inl ⟨x, rfl, by simpa [perform, hostWriteString] using h.symm⟩)))))
  | wrCmd w =>
    refine .inr (.inr (.inr (.inr (.inr (.inr (.inl ?_))))))
    simp only [perform, hostCommand] at h
    cases h1 : decodeCmd w with
    | ok i =>
      rw [h1] at h
      obtain ⟨r, -, rfl⟩ := exec_next_iff.1 h
      exact ⟨w, r, rfl, rfl⟩
    | error e =>
      rw [h1] at h
      exact ⟨w, .fault (rejectFault e), rfl, by simpa [State.finish] using h.symm⟩
  | rd r =>
    refine .inr (.inr (.inr (.inr (.inr (.inr (.inr (.inl ?_)))))))
    cases r with
    | cmd => simp [perform, hostRead] at h
    | _ =>
      obtain ⟨d, hd⟩ := deliver h
      exact ⟨d, .inr (.inl ⟨_, rfl⟩), hd⟩
  | rdCell i =>
    refine .inr (.inr (.inr (.inr (.inr (.inr (.inr (.inl ?_)))))))
    simp only [perform, hostReadCell] at h
    cases h1 : s.olen with
    | none => simp [h1] at h
    | some n =>
      cases h2 : s.obuf.read i with
      | none => simp [h1, h2] at h
      | some c => exact ⟨.chr c, .inr (.inr ⟨i, rfl⟩), by simpa [h1, h2] using h.symm⟩
  | rds =>
    refine .inr (.inr (.inr (.inr (.inr (.inr (.inr (.inl ?_)))))))
    obtain ⟨d, hd⟩ := deliver h
    exact ⟨d, .inl rfl, hd⟩
  | reset => exact .inr (.inr (.inr (.inr (.inr (.inr (.inr (.inr ⟨rfl, by simpa [perform] using h.symm⟩)))))))

/-- Everything a step can do: nothing where the host has no action pending, else the oldest action (R41). -/
theorem step_eq (s : State) :
    (s.pending = [] ∧ step s = .next s) ∨
    ∃ a q, s.pending = a :: q ∧ step s = perform a (s.setPending q) := by
  cases h : s.pending with
  | nil => exact .inl ⟨rfl, by simp [step, nextAction, h]⟩
  | cons a q => exact .inr ⟨a, q, rfl, by simp [step, nextAction, h]⟩

end Sys2Proof.Machine
end

