-- ==== Sys2Proof/Laws/PerInstr.lean ====
section
/-! SUPPORT. Statements about every instruction as syntax, one lemma per constructor. -/

namespace Sys2Proof.Laws.Row

/-- The command word lies in its row of the opcode table: `(w and mask) = match` (spec/30_encoding.md R53). -/
def Statement (i : Instr) : Prop := encode i &&& (rowPattern i).2 = (rowPattern i).1

theorem enc (c l s : Bool) : Statement (.enc c l s) := by revert c l s; unfold Statement; decide
theorem dec (c : Bool) : Statement (.dec c) := by revert c; unfold Statement; decide
theorem decx (c : Bool) : Statement (.decx c) := by revert c; unfold Statement; decide
theorem norm (c : Bool) : Statement (.norm c) := by revert c; unfold Statement; decide
theorem valid (c : Bool) : Statement (.valid c) := by revert c; unfold Statement; decide

end Sys2Proof.Laws.Row
end

