-- ==== Sys2Proof/Tests/Slice0.lean ====
section
/-! SUPPORT. The model's own tests, each result taken from the spec (named in its docstring), and for every statement with
hypotheses a witness that meets them, clause by clause at the boundary of its range. -/

namespace Sys2Proof.Tests

open Sys2Proof
open Sys2Proof.Machine

/-! ### Helpers -/

/-- The state after `WRS x` at reset. -/
def withIn (x : String) : State := (State.reset.setIbuf (Memory.writeString [] 0 (str x))).setIlen (str x).length

/-- The state after `WR NUM, n`, `WR LEN, m`, `WR SPL, k` at reset. -/
def withNums (n m k : Nat) : State := ((State.reset.setNum n).setLen m).setSpl k

/-- s with one host action pending. -/
def acting (s : State) (a : HostAction) : State := s.setPending [a]

/-- The registers a host reads after one step: STATUS, VAL, FLG, and OBUF[0..OLEN). -/
def after (s : State) (a : HostAction) : Option (Option Status × Option Nat × Option Bool × Option Str) :=
  (nextOf (step (acting s a))).map fun t => (t.status, t.val, t.flg, t.out)

/-- What `after` gives where the command ended with the string x. -/
def gaveStr (x : String) : Option (Option Status × Option Nat × Option Bool × Option Str) :=
  some (some .ok, none, none, some (str x))

/-- What `after` gives where the command ended with the number n. -/
def gaveNum (n : Nat) : Option (Option Status × Option Nat × Option Bool × Option Str) := some (some .ok, some n, none, none)

/-- What `after` gives where the command ended with status x and no result. -/
def gaveNone (x : Status) : Option (Option Status × Option Nat × Option Bool × Option Str) := some (some x, none, none, none)

/-- What `after` gives where VALID ended with FLG = b. -/
def gaveFlag (b : Bool) : Option (Option Status × Option Nat × Option Bool × Option Str) := some (some .ok, none, some b, none)

/-! ### Well-formedness: each check refuses an ill-formed term -/

theorem test_fields_wellFormed : (CmdFields.mk 0#2 true true true 0#3).wellFormed = true := by decide
theorem test_fields_op : (CmdFields.mk 0#2 false false false 5#3).opDefined = false := by decide
theorem test_fields_rsv : (CmdFields.mk 1#2 false false false 0#3).rsvZero = false := by decide
theorem test_fields_option_l : (CmdFields.mk 0#2 false true false 1#3).optionsRecognised = false := by decide
theorem test_fields_option_s : (CmdFields.mk 0#2 true false false 4#3).optionsRecognised = false := by decide
theorem test_fields_refused : [CmdFields.mk 0#2 false false false 5#3, .mk 1#2 false false false 0#3,
    .mk 0#2 false true false 1#3, .mk 0#2 true false false 4#3].map CmdFields.wellFormed =
    [false, false, false, false] := by decide

theorem test_config_wellFormed : b32c.wellFormed = true := by decide
theorem test_config_sizes : (Config.sizes { b32c with chksym := [] }) = false := by decide
theorem test_config_alphaDistinct : (Config.alphaDistinct { b32c with alpha := alphaDefault.set 31 (chr '0') }) = false := by
  decide
theorem test_config_chksymDisjoint : (Config.chksymDisjoint { b32c with chksym := str "*~$=Z" }) = false := by decide
theorem test_config_markReserved : (Config.markReserved { b32c with chksym := str "*~$=?" }) = false := by decide
theorem test_config_hyphenReserved : (Config.hyphenReserved { b32c with chksym := str "*~$=-" }) = false := by decide
theorem test_config_synonymsReserved : (Config.synonymsReserved { b32c with chksym := str "*~$=I" }) = false := by
  decide
theorem test_config_upperCase : (Config.upperCase { b32c with chksym := str "*~$=u" }) = false := by decide
theorem test_config_examplesFixed :
    (Config.examplesFixed { b32c with alpha := (alphaDefault.set 6 (chr '7')).set 7 (chr '6') }) = false := by decide
theorem test_config_refused : [{ b32c with chksym := str "*~$=u" }, { b32c with chksym := str "*~$=I" },
    { b32c with alpha := alphaDefault.set 31 (chr '0') }].map Config.wellFormed = [false, false, false] := by
  decide

/-! ### Decoding: words written out bit by bit from the format `00SLCooo` (R46, R47; spec/95_test_vectors.md 2.12) -/

/-- S = 1, L = 0, C = 1, OP = 000. -/
theorem test_decode_enc : decodeCmd 0b00101000#8 = .ok (.enc true false true) := by decide
/-- S = 0, L = 1, C = 0, OP = 000. -/
theorem test_decode_enc_l : decodeCmd 0b00010000#8 = .ok (.enc false true false) := by decide
/-- C = 1, OP = 001. -/
theorem test_decode_dec : decodeCmd 0b00001001#8 = .ok (.dec true) := by decide
/-- C = 0, OP = 010. -/
theorem test_decode_decx : decodeCmd 0b00000010#8 = .ok (.decx false) := by decide
/-- C = 1, OP = 011. -/
theorem test_decode_norm : decodeCmd 0b00001011#8 = .ok (.norm true) := by decide
/-- C = 0, OP = 100. -/
theorem test_decode_valid : decodeCmd 0b00000100#8 = .ok (.valid false) := by decide
/-- The words of 2.12 that encode no command. -/
theorem test_decode_illegal : [0x05#8, 0x06#8, 0x07#8, 0xFF#8, 0x45#8].map decodeCmd =
    List.replicate 5 (.error .illegalCmd) := by decide
/-- The words of 2.12 with an unrecognised option. -/
theorem test_decode_option : [0x40#8, 0xC8#8, 0x11#8, 0x21#8, 0x32#8, 0x14#8, 0x22#8, 0x13#8, 0x84#8, 0x41#8].map decodeCmd =
    List.replicate 10 (.error .invalidOption) := by decide
theorem test_encode : [.enc true true true, .dec true, .decx true, .norm true, .valid true].map encode =
    [0x38#8, 0x09#8, 0x0A#8, 0x0B#8, 0x0C#8] := by decide
/-- The table numbers a command's bits as the command word does, and a ninth bit belongs to no command. -/
theorem test_decodeTableWord : decodeTableWord 8 0x38 = some (.enc true true true) ∧ decodeTableWord 8 0x05 = none ∧
    decodeTableWord 16 0x0001 = none := by decide

/-! ### Tables and datapath units (spec/95_test_vectors.md 2.1 to 2.6) -/

theorem test_alpha : [10, 17, 19, 20, 27, 31].map (alphaSym b32c) = str "AHKMVZ" := by decide
theorem test_comb : [31, 32, 33, 34, 35, 36].map (comb b32c) = str "Z*~$=U" := by decide
theorem test_decm : (str "JZILOU*?-j ").map (decm b32c) =
    [some 18, some 31, some 1, some 1, some 0, none, none, none, none, none, none] := by decide
theorem test_decc : (str "U*~$=IOu-?").map (decc b32c) =
    [some 36, some 32, some 33, some 34, some 35, some 1, some 0, none, none, none] := by decide
theorem test_clean : clean (str "-A--b-") = str "AB" ∧ clean (str "a b") = str "A B" ∧ clean [0xE9#8] = [0xE9#8] := by decide
theorem test_part5 : part5 0 = [0] ∧ part5 32 = [1, 0] ∧ part5 1234 = [1, 6, 18] ∧ part5 1024 = [1, 0, 0] := by decide
theorem test_part5_iter : part5Iter 0 = [0] ∧ part5Iter 1234 = [1, 6, 18] := by decide
theorem test_asm5 : asm5 [] = 0 ∧ asm5 [0, 0, 1, 6, 18] = 1234 := by decide
theorem test_mod37 : mod37 1234 = 13 ∧ mod37 73 = 36 ∧ mod37 18446744073709551615 = 11 ∧ mod37Iter 1234 = 13 := by decide
theorem test_pad : pad b32c (str "16J") 5 = str "0016J" ∧ pad b32c (str "16J") 2 = str "16J" := by decide
theorem test_hyph : hyph (str "16J") 3 = str "16J" ∧ hyph (str "0016") 2 = str "00-16" ∧ hyph (str "0016J") 2 = str "0-01-6J" ∧
    hyphIter (str "00010") 3 = str "00-010" := by decide

/-! ### Commands, one step each -/

/-- 2.7: NUM = 1234, LEN = 6, SPL = 3, `ENC C L S`. -/
theorem test_enc_all : after (withNums 1234 6 3) (.wrCmd 0x38#8) = gaveStr "001-6JD" := by decide
/-- 2.7: SPL = 0 with S = 1. -/
theorem test_enc_split_zero : after (withNums 1234 0 0) (.wrCmd 0x20#8) = gaveNone .invalidOption := by decide
/-- 2.8. -/
theorem test_dec_checksum : after (withIn "1-6-j-D") (.wrCmd 0x09#8) = gaveNum 1234 := by decide
/-- Source example S7. -/
theorem test_dec_no_result : after (withIn "BU-123") (.wrCmd 0x01#8) = gaveNone .noResult := by decide
/-- 2.9: the last raw character is not upper-cased. -/
theorem test_decx_fault : after (withIn "16Jd") (.wrCmd 0x0A#8) = gaveNone .malformedInput := by decide
/-- 2.9: `DECX` on `"16JD"`. -/
theorem test_decx_plain : after (withIn "16JD") (.wrCmd 0x02#8) = gaveNum 39501 := by decide
/-- Source example S8. -/
theorem test_norm_plain : after (withIn "hello-world") (.wrCmd 0x03#8) = gaveStr "HE110W0R1D" := by decide
/-- 2.10: `NORM C`. -/
theorem test_norm_checksum : after (withIn "bu-123") (.wrCmd 0x0B#8) = gaveStr "B?123" := by decide
/-- 2.11: the two modes of VALID differ on `"16JU"`. -/
theorem test_valid_plain : after (withIn "16JU") (.wrCmd 0x04#8) = gaveFlag false := by decide
/-- 2.11. -/
theorem test_valid_checksum : after (withIn "16JU") (.wrCmd 0x0C#8) = gaveFlag true := by decide

/-! ### Faults, reset, host actions -/

/-- Program P3 step 6: a fault leaves no result, and the operands as they were. -/
theorem test_fault_illegal : after (withNums 32 5 3) (.wrCmd 0x07#8) = gaveNone .illegalCmd ∧
    (nextOf (step (acting (withNums 32 5 3) (.wrCmd 0x07#8)))).map (·.num) = some (some 32) := by decide
/-- U8: a command whose operand the host has not written is refused. -/
theorem test_unwritten : step (acting State.reset (.wrCmd 0x00#8)) = .refused (.operandUnwritten .num) ∧
    step (acting State.reset (.wrCmd 0x01#8)) = .refused (.operandUnwritten .ilen) := ⟨rfl, rfl⟩
/-- U8, U10: the host reads that have no meaning. -/
theorem test_reads_refused : step (acting State.reset (.rd .val)) = .refused (.noValue .val) ∧
    step (acting State.reset (.rd .cmd)) = .refused .cmdWriteOnly := ⟨rfl, rfl⟩
/-- R106, R107: reset clears every register. -/
theorem test_reset_action : nextOf (step (acting (withNums 1 2 3) .reset)) = some State.reset := by decide
/-- `WRS` writes the cells from index 0 and ILEN. -/
theorem test_wrs : (nextOf (step (acting State.reset (.wrs (str "16J"))))).map (fun t => (t.ibuf, t.ilen)) =
    some ([(0, 0x31#8), (1, 0x36#8), (2, 0x4A#8)], some 3) := by decide
theorem test_memory_write : Memory.write [(0, chr 'A'), (2, chr 'B')] 1 (chr 'C') = [(0, chr 'A'), (1, chr 'C'), (2, chr 'B')] ∧
    Memory.write [(0, chr 'A')] 0 (chr 'D') = [(0, chr 'D')] ∧ Memory.read [(0, chr 'A')] 1 = none := by decide
/-- R55, R24: `RDS` after `ENC` reads the string. -/
theorem test_rds : (nextOf (perform .rds ((withNums 32 0 1).finish (.str (str "10"))))).bind (·.rdata) =
    some (.str (str "10")) := by decide
/-- R56: `encode(1234, length=6, split=3, checksum=true)`. -/
theorem test_callEncode : callEncode 1234 (some 6) (some 3) true =
    [.wrNum 1234, .wrLen 6, .wrSpl 3, .wrCmd 0x38#8, .rds] := by decide
/-- R56 with source examples S17 and S7: `decode("16J")` ends with the host holding 1234, `decode!("BU-123")` with it holding
MALFORMED_INPUT. -/
theorem test_performDecode : (nextOf (performDecode (str "16J") false State.reset)).bind (·.rdata) = some (.num 1234) ∧
    (nextOf (performDecodeOrFault (str "BU-123") false State.reset)).bind (·.rdata) =
      some (.status .malformedInput) := by decide
/-- Each valid word of R53 runs as the first command after reset. -/
theorem test_withFetchWord : [0x00, 0x08, 0x10, 0x18, 0x20, 0x28, 0x30, 0x38, 0x01, 0x09, 0x02, 0x0A, 0x03, 0x0B, 0x04, 0x0C].map
    (fun w => (nextOf (step (State.reset.withFetchWord 8 w))).bind (·.status)) =
    List.replicate 16 (some .ok) := by decide
/-- R8, U9: with W = 8 the string "160" (1216) is refused and "16" (38) decoded; with LMAX = 2 "160" is refused. -/
theorem test_finite : decResult { b32c with width := some 8 } false (withIn "160") = .error .numberTooWide ∧
    decResult { b32c with width := some 8 } false (withIn "16") = .ok (.num 38) ∧
    decResult { b32c with lmax := some 2 } false (withIn "160") = .error .stringTooLong := ⟨rfl, rfl, rfl⟩
/-- R8 with R9: with W = 1 an ILEN or an OLEN of 2 is refused; with W = 5 the checksum value 36 of `U`; with W = 4 the value 31
of `Z` (log entry 8). -/
theorem test_finite_width : decResult { b32c with width := some 1 } false (withIn "00") = .error .numberTooWide ∧
    encResult { b32c with width := some 1 } true false false (State.reset.setNum 1) = .error .numberTooWide ∧
    decResult { b32c with width := some 5 } true (withIn "0U") = .error .numberTooWide ∧
    normResult { b32c with width := some 4 } false (withIn "Z") = .error .numberTooWide ∧
    normResult { b32c with width := some 4 } true (withIn "Z") = .ok (.str (str "Z")) := ⟨rfl, rfl, rfl, rfl, rfl⟩
/-- R84 with DECX_FORWARDS_CHECKSUM false: `"16JX"` with `DECX C` gives 39517 (2.9). -/
theorem test_decx_not_forwarding :
    decxResult { b32c with decxForwardsChecksum := false } true (withIn "16JX") = .ok (.num 39517) := rfl

/-! ### Witnesses: the hypotheses of each statement are met -/

/-- UndefinedOpRaisesIllegalCmd: the first and the last undefined OP. -/
theorem witness_UndefinedOp : ∀ w ∈ [0x05#8, 0xFF#8], (acting State.reset (.wrCmd w)).pending = [.wrCmd w] ∧
    5 ≤ (w.extractLsb' 0 3).toNat := by decide
/-- ReservedBitsRaiseInvalidOption: RSV 01 on OP 0 and RSV 11 on OP 4. -/
theorem witness_ReservedBits : ∀ w ∈ [0x40#8, 0xC4#8], (acting State.reset (.wrCmd w)).pending = [.wrCmd w] ∧
    (w.extractLsb' 0 3).toNat < 5 ∧ w.extractLsb' 6 2 ≠ 0#2 := by decide
/-- UnrecognisedOptionRaisesInvalidOption: L on OP 1 and S on OP 4. -/
theorem witness_UnrecognisedOption : ∀ w ∈ [0x11#8, 0x24#8], (acting State.reset (.wrCmd w)).pending = [.wrCmd w] ∧
    1 ≤ (w.extractLsb' 0 3).toNat ∧ (w.extractLsb' 0 3).toNat ≤ 4 ∧ (w.getLsbD 4 = true ∨ w.getLsbD 5 = true) := by decide
/-- StepRunsDecodedCommand. -/
theorem witness_StepRunsDecodedCommand : (acting (withNums 0 0 1) (.wrCmd 0x38#8)).pending = .wrCmd 0x38#8 :: [] ∧
    decodeCmd 0x38#8 = .ok (.enc true true true) := by decide
/-- IdleStepChangesNothing. -/
theorem witness_IdleStep : State.reset.pending = [] := rfl
/-- EncCommandMeaning, both clauses: SPL = 0 and SPL = 1 (with NUM and LEN at 0), and with no option only NUM written. -/
theorem witness_EncCommandMeaning : ((withNums 0 0 0).num = some 0 ∧ (withNums 0 0 0).len = some 0 ∧ (withNums 0 0 0).spl = some 0) ∧
    ((withNums 0 0 1).spl = some 1 ∧ ¬(true = true ∧ 1 = 0)) ∧
    ((State.reset.setNum 0).num = some 0 ∧ (false = true → (State.reset.setNum 0).len = some 0)) := by decide
/-- EncZeroSplitRaisesInvalidOption: SPL = 0 with NUM and LEN unwritten. -/
theorem witness_EncZeroSplit : (State.reset.setSpl 0).spl = some 0 ∧ (State.reset.setSpl 0).num = none := by decide
/-- EncResultLength, EncResultSymbols, EncDecRoundTrip, ChecksumStringDecodedWithoutChecksum: the smallest operands with every
option, remainders 31 and 32, and no option. -/
theorem witness_EncOptions : (∀ n ∈ [0, 31, 32], (withNums n 0 1).num = some n ∧ (true = true → (withNums n 0 1).len = some 0) ∧
    (true = true → (withNums n 0 1).spl = some 1 ∧ 0 < 1)) ∧
    ((State.reset.setNum 7).num = some 7 ∧ (false = true → (State.reset.setNum 7).spl = some 1 ∧ 0 < 1)) := by decide
/-- EncSmallNumbers: 31, and 0 of the second clause. -/
theorem witness_EncSmallNumbers : ∀ n ∈ [0, 31], (withNums n 0 1).num = some n ∧ n < 32 := by decide
/-- EncNoLeadingZero: NUM = 1, with S and without. -/
theorem witness_EncNoLeadingZero : (withNums 1 0 1).num = some 1 ∧ (true = true → (withNums 1 0 1).spl = some 1 ∧ 0 < 1) ∧
    (false = true → (State.reset.setNum 1).spl = some 1 ∧ 0 < 1) := by decide
/-- DecPlainMeaning: an accepted string, the empty string, and a string with a character that is no key. -/
theorem witness_DecPlainMeaning : (HoldsIn (withIn "1-6-j") (str "1-6-j") ∧
    (clean (str "1-6-j")).map (decm b32c) = [1, 6, 18].map some) ∧
    (HoldsIn (withIn "") [] ∧ (clean []).map (decm b32c) = ([] : List Nat).map some) ∧
    (HoldsIn (withIn "BU-123") (str "BU-123") ∧ ∃ ch ∈ clean (str "BU-123"), decm b32c ch = none) := by decide
/-- DecChecksumMeaning: the empty string; a match; a mismatch; no key of DECC; a bad body character. -/
theorem witness_DecChecksumMeaning : HoldsIn (withIn "") [] ∧
    (HoldsIn (withIn "16JD") (str "16J" ++ [chr 'D']) ∧ (clean (str "16J")).map (decm b32c) = [1, 6, 18].map some ∧
      decc b32c (chr 'D') = some ([1, 6, 18].foldl (fun acc d => acc * 32 + d) 0 % 37)) ∧
    (HoldsIn (withIn "16JX") (str "16J" ++ [chr 'X']) ∧
      decc b32c (chr 'X') ≠ some ([1, 6, 18].foldl (fun acc d => acc * 32 + d) 0 % 37)) ∧
    (HoldsIn (withIn "16Jd") (str "16J" ++ [chr 'd']) ∧ decc b32c (chr 'd') = none) ∧
    (HoldsIn (withIn "UU") (str "U" ++ [chr 'U']) ∧ ∃ ch ∈ clean (str "U"), decm b32c ch = none) := by decide
/-- DecxFollowsDec, NormPlainMeaning, NormChecksumMeaning, ValidFollowsNorm: a string, and the empty one. -/
theorem witness_HoldsIn : HoldsIn (withIn "hello-world") (str "hello-world") ∧ HoldsIn (withIn "") [] ∧
    str "16Jd" = str "16J" ++ [chr 'd'] ∧ HoldsIn (withIn "16Jd") (str "16Jd") := by decide
/-- DecxFollowsDec, its last clause. -/
theorem witness_DecxNotForwarding : (Config.decxForwardsChecksum { b32c with decxForwardsChecksum := false }) = false := rfl
/-- DecxCompletesOnAcceptedInput: C = 0 with the empty body, C = 1 with a checksum-only symbol (73 = 2·32 + 9, `U`). -/
theorem witness_DecxCompletes : (HoldsIn (withIn "") (if false = true then [] ++ [chr '0'] else []) ∧
      (clean []).map (decm b32c) = ([] : List Nat).map some) ∧
    (HoldsIn (withIn "29U") (if true = true then str "29" ++ [chr 'U'] else str "29") ∧
      (clean (str "29")).map (decm b32c) = [2, 9].map some ∧
      decc b32c (chr 'U') = some ([2, 9].foldl (fun acc d => acc * 32 + d) 0 % 37)) := by decide
/-- DecCornerCases, clause by clause. -/
theorem witness_DecCornerCases : (HoldsIn (withIn "---") (str "---") ∧ clean (str "---") = []) ∧ HoldsIn (withIn "") [] ∧
    (HoldsIn (withIn "0") [chr '0'] ∧ HoldsIn (withIn "O") [chr 'O'] ∧ HoldsIn (withIn "1") [chr '1'] ∧
      ¬(chr '1' = chr '0' ∨ chr '1' = chr 'O')) ∧
    HoldsIn (withIn "16J-") (str "16J" ++ [hyphen]) ∧
    (HoldsIn (withIn "16JD") (str "16J" ++ [chr 'D']) ∧ HoldsIn (withIn "16J-D") (str "16J" ++ [hyphen, chr 'D'])) ∧
    (∀ x ∈ ["?1", " 1", "1\x7f"], HoldsIn (withIn x) (str x) ∧
      ∃ ch ∈ str x, ch = invalidMark ∨ ch.toNat ≤ 0x20 ∨ 0x7F ≤ ch.toNat) := by decide
/-- DecIgnoresHyphensCaseSynonyms, its clause on one letter at its first and its last letter. -/
theorem witness_DecIgnoresLetter : (HoldsIn (withIn "1a") (str "1" ++ BitVec.ofNat 8 (0x61 + 0) :: [] ++ if false = true then [chr 'D'] else []) ∧
      HoldsIn (withIn "1A") (str "1" ++ BitVec.ofNat 8 (0x41 + 0) :: [] ++ if false = true then [chr 'D'] else [])) ∧
    (HoldsIn (withIn "zD") ([] ++ BitVec.ofNat 8 (0x61 + 25) :: [] ++ if true = true then [chr 'D'] else []) ∧
      HoldsIn (withIn "ZD") ([] ++ BitVec.ofNat 8 (0x41 + 25) :: [] ++ if true = true then [chr 'D'] else [])) := by decide
/-- DecIgnoresHyphensCaseSynonyms, its other clauses, with the checksum character `D` and without. -/
theorem witness_DecIgnores : (HoldsIn (withIn "16JD") (str "1" ++ str "6J" ++ if true = true then [chr 'D'] else []) ∧
      HoldsIn (withIn "1-6JD") (str "1" ++ hyphen :: str "6J" ++ if true = true then [chr 'D'] else [])) ∧
    (HoldsIn (withIn "16j") (str "16j" ++ if false = true then [chr 'D'] else []) ∧
      HoldsIn (withIn "16J") ((str "16j").map up ++ if false = true then [chr 'D'] else [])) ∧
    (HoldsIn (withIn "16J") (str "" ++ chr '1' :: str "6J" ++ if false = true then [chr 'D'] else []) ∧
      HoldsIn (withIn "l6J") (str "" ++ chr 'l' :: str "6J" ++ if false = true then [chr 'D'] else [])) := by decide
/-- RoundTripForEveryAlphabet: the default tables with W = 8 at the largest number, and another table content. -/
theorem witness_RoundTripForEveryAlphabet :
    ((Config.wellFormed { b32c with width := some 8 }) = true ∧ fitsNum { b32c with width := some 8 } 255 = true) ∧
    (Config.wellFormed { b32c with chksym := str "+/@#%" }) = true ∧ (some 1 : Option Nat) ≠ some 0 := by decide
/-- NormNeverFailsAndIsCanonical: its hypotheses on the input and on the result, for both values of C. -/
theorem witness_NormNeverFails : (HoldsIn (withIn "i-l-o") (str "i-l-o") ∧ HoldsIn (withIn "110") (str "110") ∧
    invalidMark ∉ str "110" ∧ normString b32c false (str "i-l-o") = str "110") ∧
    (HoldsIn (withIn "x") ([] ++ [chr 'x']) ∧ [] ++ [chr 'x'] = str "x") := by decide
/-- NormValidCornerCases, clause by clause. -/
theorem witness_NormValidCornerCases : (HoldsIn (withIn "---") (str "---") ∧ clean (str "---") = []) ∧ HoldsIn (withIn "") [] ∧
    (HoldsIn (withIn "?") [chr '?'] ∧ HoldsIn (withIn "x") [chr 'x']) ∧ HoldsIn (withIn "16JX") (str "16JX") ∧
    HoldsIn (withIn "16J!") (str "16J!") ∧ (HoldsIn (withIn "16J?") (str "16J?") ∧ chr '?' ∈ str "16J?") ∧
    HoldsIn (withIn "16JU") (str "16JU") := by decide
/-- CommandsKeepOperands, FailedCommandChangesOnlyStatus: a command write that answers a next state, one that ends with NO_RESULT
and one that ends in a fault. -/
theorem witness_CommandWrites : (acting (withIn "U") (.wrCmd 0x01#8)).pending = [.wrCmd 0x01#8] ∧
    (nextOf (step (acting (withIn "U") (.wrCmd 0x01#8)))).map (·.status) = some (some .noResult) ∧
    (nextOf (step (acting (withIn "U") (.wrCmd 0x02#8)))).map (·.status) = some (some .malformedInput) ∧
    (nextOf (step (acting (withIn "U") (.wrCmd 0x07#8)))).map (·.status) = some (some .illegalCmd) := by decide
/-- CommandOutcomesAndFrame: each command answers a next state somewhere. -/
theorem witness_CommandOutcomes : [.enc true true true, .dec true, .decx true, .norm true, .valid true].map
    (fun i => (nextOf (exec i ((withIn "00").setNum 0 |>.setLen 0 |>.setSpl 1))).isSome) = List.replicate 5 true := by
  decide
/-- OutcomeDependsOnOperandsOnly: two states that agree on what a command reads and differ elsewhere. -/
theorem witness_OutcomeDepends : ((withNums 5 1 2).num = (State.reset.setNum 5).num ∧ withNums 5 1 2 ≠ State.reset.setNum 5) ∧
    ((withIn "A").ilen = ((withIn "A").setVal 3).ilen ∧
      (∀ j, j < 1 → ((withIn "A").setVal 3).ibuf.read j = (withIn "A").ibuf.read j)) := by decide
/-- StepKeepsInvariant: a state with a written input string and a result meets the invariant and steps. -/
theorem witness_StepKeepsInvariant : StateInv (acting ((withIn "16J").finish (.str (str "10"))) (.wrCmd 0x01#8)) ∧
    (nextOf (step (acting ((withIn "16J").finish (.str (str "10"))) (.wrCmd 0x01#8)))).isSome = true := by decide
/-- ResetActionResets. -/
theorem witness_ResetAction : (acting (withNums 1 2 3) .reset).pending = .reset :: [] := rfl
/-- HostWrites, each clause; the cell at index 0. -/
theorem witness_HostWrites : ∀ a ∈ [HostAction.wrNum 0, .wrLen 0, .wrSpl 0, .wrIlen 0, .wrCell 0 (chr 'A')],
    (acting State.reset a).pending = a :: [] := by decide
/-- HostReads, RdsReadsWholeString: states in which each register holds a value, and reset, in which none does. -/
theorem witness_HostReads : (∀ a ∈ [HostAction.rd .status, .rd .val, .rd .flg, .rd .olen, .rd .cmd, .rdCell 0, .rdCell 2, .rds],
      (acting State.reset a).pending = a :: []) ∧
    (State.reset.status = none ∧ State.reset.val = none ∧ State.reset.flg = none ∧ State.reset.olen = none) ∧
    ((State.reset.finish (.num 3)).status = some .ok ∧ (State.reset.finish (.num 3)).val = some 3 ∧
      (State.reset.finish (.flag true)).flg = some true ∧ (State.reset.finish (.str (str "10"))).olen = some 2) ∧
    (HoldsOut (State.reset.finish (.str (str "10"))) (str "10") ∧ (str "10")[1]? = some (chr '0') ∧ (str "10").length ≤ 2) :=
  ⟨by decide, by decide, by decide, (shows_finish State.reset (.str (str "10"))).2.1, by decide, by decide⟩
/-- DecodeTableKeys, DecodeTableProperties: the default tables, and another checksum alphabet. -/
theorem witness_DecodeTables : b32c.wellFormed = true ∧ (Config.wellFormed { b32c with chksym := str "+/@#%" }) = true := by
  decide
/-- Part5Groups, Part5IterativeForm, PadForm, HyphForm, HyphIterativeForm, HyphProperties: their side conditions at the boundary. -/
theorem witness_Units : 0 < 1 ∧ 31 < 32 ∧ (32 ≤ 32 ∧ 1023 ≤ 1023) ∧ (str "16J").length < 4 ∧ 3 ≤ (str "16J").length ∧
    1 ≤ 1 ∧ str "J" ≠ [] ∧ (str "J").length ≤ 1 ∧ (∀ c ∈ str "--", c = chr '-') ∧ (∀ x ∈ [0, 31], x < 32) := by decide
/-- CleanProperties: codes in and just outside each range of the case fold. -/
theorem witness_CaseFold : (∀ c ∈ [0x61#8, 0x7A#8], 0x61 ≤ c.toNat ∧ c.toNat ≤ 0x7A) ∧
    (∀ c ∈ [0x60#8, 0x7B#8], ¬(0x61 ≤ c.toNat ∧ c.toNat ≤ 0x7A)) ∧ (∀ c ∈ [0x80#8, 0xFF#8], 0x80 ≤ c.toNat) := by decide
/-- FiniteParametersRefuse: a command that answers, a number that does not fit, and strings too long to read or to write. -/
theorem witness_FiniteParameters :
    encResult { b32c with width := some 8, lmax := some 2 } false false false (State.reset.setNum 255) = .ok (.str (str "7Z")) ∧
    fitsNum { b32c with width := some 8 } 256 = false ∧ fitsLen { b32c with lmax := some 2 } 3 = false ∧
    decResult { b32c with width := some 8, lmax := some 2 } false (withIn "7Z") = .ok (.num 255) ∧
    decResult b32c false (withIn "16J") = .ok (.num 1234) ∧ encResult b32c false false false (State.reset.setNum 1234) =
      .ok (.str (str "16J")) := ⟨rfl, rfl, rfl, rfl, rfl, rfl⟩
/-- FiniteParametersRefuse: an ILEN, a LEN and an SPL that do not fit W = 1, and a state and a Config that meet every hypothesis
of the completion clauses (36 and 32^1 fit W = 6). -/
theorem witness_FiniteParametersClauses :
    ((withIn "00").ilen = some 2 ∧ fitsNum { b32c with width := some 1 } 2 = false) ∧
    ((withNums 0 2 2).len = some 2 ∧ (withNums 0 2 2).spl = some 2) ∧
    ((withIn "Z").ilen = some 1 ∧ fitsLen { b32c with width := some 6, lmax := some 1 } 1 = true ∧
      fitsNum { b32c with width := some 6 } 1 = true ∧ fitsNum { b32c with width := some 6 } 31 = true ∧
      fitsNum { b32c with width := some 6 } 36 = true ∧ fitsNum { b32c with width := some 6 } (32 ^ 1) = true ∧
      (Config.wellFormed { b32c with width := some 6, lmax := some 1 }) = true) ∧
    decxResult b32c false (withIn "Z") = .ok (.num 31) ∧ encResult b32c false true true (withNums 0 2 2) = .ok (.str (str "00")) :=
  ⟨by decide, by decide, by decide, rfl, rfl⟩
/-- DocumentCallsReturnResults. -/
theorem witness_DocumentCalls : (none : Option Nat) ≠ some 0 ∧ (some 1 : Option Nat) ≠ some 0 := by decide

end Sys2Proof.Tests
end

section
/-! PROOF. What a host write to CMD can do, and that it keeps the operands (spec/10_state.md R16, R17). -/

namespace Sys2Proof.Machine

/-- Everything a write to CMD can do when it answers a next state: CMD holds the word, and the command has ended with some
outcome, the fault of a rejected word included (R17, R53). -/
theorem step_wrCmd_next {s t : State} {w : BitVec 8} {q : List HostAction} (hq : s.pending = .wrCmd w :: q)
    (h : step s = .next t) : ∃ r, t = ((s.setPending q).setCmd w).finish r := by
  have hp : perform (.wrCmd w) (s.setPending q) = .next t := by simpa [step, nextAction, hq] using h
  simpa using perform_next hp

/-- Settles O29: a command write ends by `finish` whatever its outcome, and `finish` keeps the operands (`sameOperands_finish`). -/
theorem commandsKeepOperands : Obligations.CommandsKeepOperands := by
  intro s t w q hq h
  obtain ⟨r, rfl⟩ := step_wrCmd_next hq h
  obtain ⟨hnum, hlen, hspl, hilen, hibuf, -⟩ := sameOperands_finish ((s.setPending q).setCmd w) r
  exact ⟨hnum, hlen, hspl, hilen, fun j => congrArg (Memory.read · j) hibuf⟩

end Sys2Proof.Machine
end

section
/-! PROOF. The decode tables and the units CLEAN and PAD (spec/40_datapath_units.md R63 to R66, R73). -/

namespace Sys2Proof.Machine

/-- Settles O46: the 256 codes of the default tables, one by one. -/
theorem romFormMatchesTables : Obligations.RomFormMatchesTables := by
  constructor <;> decide +kernel

theorem toNat_up_of_lower {c : Chr} (h : 0x61 ≤ c.toNat ∧ c.toNat ≤ 0x7A) : (up c).toNat = c.toNat - 0x20 := by
  rw [up, if_pos h]
  bv_omega

theorem up_of_not_lower {c : Chr} (h : ¬(0x61 ≤ c.toNat ∧ c.toNat ≤ 0x7A)) : up c = c := if_neg h

/-- The fold of a letter is no lower-case letter, so folding twice is folding once. -/
@[simp] theorem up_up (c : Chr) : up (up c) = up c := by
  by_cases h : 0x61 ≤ c.toNat ∧ c.toNat ≤ 0x7A
  · refine up_of_not_lower ?_
    rw [toNat_up_of_lower h]
    omega
  · rw [up_of_not_lower h, up_of_not_lower h]

/-- The fold keeps the hyphen and makes none. -/
@[simp] theorem up_eq_hyphen_iff (c : Chr) : up c = hyphen ↔ c = hyphen := by
  by_cases h : 0x61 ≤ c.toNat ∧ c.toNat ≤ 0x7A
  · have hup := toNat_up_of_lower h
    have hcode : hyphen.toNat = 0x2D := rfl
    constructor
    · intro hc
      rw [hc] at hup
      omega
    · rintro rfl
      omega
  · rw [up_of_not_lower h]

/-- The default tables hold ASCII characters only. -/
theorem toNat_lt_of_mem_tables : ∀ c ∈ b32c.alpha ++ b32c.chksym, c.toNat < 0x80 := by decide

theorem clean_eq_flatMap (s : Str) : clean s = s.flatMap fun c => if c = hyphen then [] else [up c] := by
  induction s with
  | nil => rfl
  | cons c s ih => by_cases h : c = hyphen <;> simp [h, ih]

theorem length_clean_add_count (s : Str) : (clean s).length + s.count hyphen = s.length := by
  induction s with
  | nil => rfl
  | cons c s ih => by_cases h : c = hyphen <;> simp [h] <;> omega

theorem clean_clean (s : Str) : clean (clean s) = clean s := by
  induction s with
  | nil => rfl
  | cons c s ih => by_cases h : c = hyphen <;> simp [h, ih]

theorem filter_map_up (s : Str) : (s.map up).filter (fun c => c != hyphen) = clean s := by
  induction s with
  | nil => rfl
  | cons c s ih => by_cases h : c = hyphen <;> simp [h, ih]

theorem clean_of_all_hyphen {s : Str} (h : ∀ c ∈ s, c = hyphen) : clean s = [] := by
  rw [clean_eq_flatMap, List.flatMap_eq_nil_iff]
  intro c hc
  rw [if_pos (h c hc)]

/-- Settles O47, character by character: the fold neither makes a hyphen nor hides one (`up_eq_hyphen_iff`). -/
theorem cleanProperties : Obligations.CleanProperties := by
  refine ⟨fun c => ⟨toNat_up_of_lower, up_of_not_lower, fun h => ?_⟩, clean_eq_flatMap, length_clean_add_count, clean_clean,
    filter_map_up, clean_nil, fun _ => clean_of_all_hyphen⟩
  have hc : c ∉ b32c.alpha ++ b32c.chksym := fun hm => absurd (toNat_lt_of_mem_tables c hm) (by omega)
  rw [List.mem_append, not_or] at hc
  exact ⟨hc.1, hc.2, up_of_not_lower (by omega)⟩

theorem pad_of_length_le (cfg : Config) {s : Str} {m : Nat} (h : m ≤ s.length) : pad cfg s m = s := by
  simp [pad, Nat.sub_eq_zero_of_le h]

theorem length_pad (cfg : Config) (s : Str) (m : Nat) : (pad cfg s m).length = max s.length m := by
  simp [pad]
  omega

/-- Settles O52: the padding has `m - s.length` symbols, none when s is long enough. -/
theorem padForm : Obligations.PadForm :=
  fun cfg s m => ⟨fun _ => rfl, pad_of_length_le cfg, length_pad cfg s m⟩

end Sys2Proof.Machine
end

section
/-! PROOF. The partitioner PART5, the assembler ASM5 and the recurrence for MOD37 (spec/40_datapath_units.md R67 to R72). -/

namespace Sys2Proof.Machine

theorem groupCount_pos (n : Nat) : 0 < groupCount n := Nat.succ_pos _

/-- R67: the number of groups is the least k, at least 1, with n < 32^k. -/
theorem groupCount_le_iff {n j : Nat} (hj : 0 < j) : groupCount n ≤ j ↔ n < 32 ^ j := by
  rcases Nat.eq_zero_or_pos n with rfl | hn
  · have h0 : 0 < 32 ^ j := by positivity
    simp [groupCount, h0]
    omega
  · have hpow : 32 ^ j = 2 ^ (5 * j) := (pow_mul 2 5 j).symm
    rw [hpow, ← Nat.log2_lt hn.ne', groupCount, radixBits]
    omega

theorem groupCount_of_lt {n : Nat} (h : n < 32) : groupCount n = 1 :=
  le_antisymm ((groupCount_le_iff one_pos).2 (by omega)) (groupCount_pos n)

/-- One shift to the right by 5 takes one group off. -/
theorem groupCount_of_le {n : Nat} (h : 32 ≤ n) : groupCount n = groupCount (n / 32) + 1 := by
  have hstep : ∀ {j}, 0 < j → (groupCount n ≤ j + 1 ↔ groupCount (n / 32) ≤ j) := fun hj => by
    rw [groupCount_le_iff hj, groupCount_le_iff (by omega), pow_succ, Nat.div_lt_iff_lt_mul (by omega)]
  have htwo : 1 < groupCount n := by
    by_contra h1
    have := (groupCount_le_iff (n := n) one_pos).1 (by omega)
    omega
  have hle := (hstep (groupCount_pos (n / 32))).2 le_rfl
  have hge := (hstep (j := groupCount n - 1) (by omega)).1 (by omega)
  omega

theorem part5_of_lt {n : Nat} (h : n < 32) : part5 n = [n] := by
  simp [part5, groupCount_of_lt h, radix, Nat.mod_eq_of_lt h]

/-- The recursion behind R68: the last group is bits 4:0, the groups before it are those of the number shifted right by 5. -/
theorem part5_of_le {n : Nat} (h : 32 ≤ n) : part5 n = part5 (n / 32) ++ [n % 32] := by
  simp only [part5, groupCount_of_le h, List.range_succ, List.map_append, radix]
  congr 1
  · refine List.map_congr_left fun i hi => ?_
    have hexp : groupCount (n / 32) + 1 - 1 - i = groupCount (n / 32) - 1 - i + 1 := by
      have := List.mem_range.1 hi
      omega
    rw [hexp, pow_succ', Nat.div_div_eq_div_mul]
  · simp

/-- Induction along the shift register: from n shifted right by 5 to n, down to the numbers of a single group. -/
theorem shift_induction {P : Nat → Prop} (single : ∀ n < 32, P n) (shift : ∀ n, 32 ≤ n → P (n / 32) → P n) (n : Nat) : P n := by
  induction n using Nat.strong_induction_on with
  | _ n ih =>
    rcases Nat.lt_or_ge n 32 with h | h
    · exact single n h
    · exact shift n h (ih (n / 32) (by omega))

@[simp] theorem length_part5 (n : Nat) : (part5 n).length = groupCount n := by simp [part5]

theorem part5_getElem? {n i : Nat} (h : i < groupCount n) :
    (part5 n)[i]? = some (n / 32 ^ (groupCount n - 1 - i) % 32) := by
  simp [part5, h, radix]

theorem head?_part5_ne_zero (n : Nat) : 0 < n → (part5 n).head? ≠ some 0 := by
  induction n using shift_induction with
  | single n h =>
    intro hn
    simp [part5_of_lt h, hn.ne']
  | shift n h ih =>
    intro _
    have hne : part5 (n / 32) ≠ [] := List.ne_nil_of_length_pos (by simp [groupCount_pos])
    rw [part5_of_le h, List.head?_append_of_ne_nil _ hne]
    exact ih (by omega)

/-- Settles O48: `groupCount_le_iff` makes the number of groups the least. -/
theorem part5Groups : Obligations.Part5Groups := by
  intro n
  refine ⟨groupCount n, length_part5 n, ?_, fun hn => ⟨(groupCount_le_iff (groupCount_pos n)).1 le_rfl, fun j hj => ?_⟩,
    fun i hi => part5_getElem? hi, head?_part5_ne_zero n⟩
  · rintro rfl
    rfl
  · have hj0 : 0 < j := Nat.pos_of_ne_zero fun h => by simp [h] at hj; omega
    exact (groupCount_le_iff hj0).2 hj

/-- The loop puts the groups of SR in front of the group stack when the fuel covers them. -/
theorem part5Loop_eq_append {fuel n : Nat} (g : List Nat) (h : groupCount n ≤ fuel) : part5Loop fuel n g = part5 n ++ g := by
  induction fuel generalizing n g with
  | zero => exact absurd h (groupCount_pos n).not_ge
  | succ fuel ih =>
    rw [part5Loop, radix]
    rcases Nat.lt_or_ge n 32 with hlt | hge
    · rw [if_pos (by omega), part5_of_lt hlt, Nat.mod_eq_of_lt hlt, List.singleton_append]
    · rw [groupCount_of_le hge] at h
      rw [if_neg (by omega), ih _ (by omega), part5_of_le hge, List.append_assoc, List.singleton_append]

theorem part5Iter_eq (n : Nat) : part5Iter n = part5 n := by
  have hfuel : groupCount n ≤ Nat.log2 n + 1 := Nat.succ_le_succ (Nat.div_le_self _ _)
  simpa [part5Iter] using part5Loop_eq_append [] hfuel

/-- Settles O49: the loop and PART5 take off the same last group, and the bit length of n is fuel enough. -/
theorem part5IterativeForm : Obligations.Part5IterativeForm := by
  refine fun n => ⟨part5Iter_eq n, fun h => ?_, fun hlo hhi => ?_⟩
  · rw [length_part5, groupCount_of_lt h]
  · rw [length_part5, groupCount_of_le hlo, groupCount_of_lt (by omega)]

@[simp] theorem asm5_nil : asm5 [] = 0 := rfl

@[simp] theorem asm5_append_singleton (v : List Nat) (x : Nat) : asm5 (v ++ [x]) = 32 * asm5 v + x := by
  simp [asm5, radix, Nat.mul_comm]

theorem asm5_zero_cons (v : List Nat) : asm5 (0 :: v) = asm5 v := by simp [asm5]

theorem asm5_part5 (n : Nat) : asm5 (part5 n) = n := by
  induction n using shift_induction with
  | single n h => simp [part5_of_lt h, asm5]
  | shift n h ih => rw [part5_of_le h, asm5_append_singleton, ih, Nat.div_add_mod]

theorem asm5_lt_pow (v : List Nat) : (∀ x ∈ v, x < 32) → asm5 v < 32 ^ v.length := by
  induction v using List.reverseRecOn with
  | nil => simp
  | append_singleton v x ih =>
    intro h
    have hv := ih fun y hy => h y (by simp [hy])
    have hx := h x (by simp)
    rw [asm5_append_singleton, List.length_append, List.length_singleton, pow_succ]
    omega

/-- Settles O50. The shift leaves the low 5 bits clear, so adding a value below 32 is setting them. -/
theorem asm5Laws : Obligations.Asm5Laws := by
  refine ⟨asm5_part5, asm5_zero_cons, asm5_append_singleton, asm5_lt_pow, fun a x hx => ?_⟩
  have hx' : x < 2 ^ 5 := hx
  rw [← Nat.shiftLeft_add_eq_or_of_lt hx', Nat.shiftLeft_eq]

/-- The recurrence of R72 over any values is the remainder of the number they assemble to. -/
theorem foldl_mod_eq_mod37_asm5 (v : List Nat) : v.foldl (fun r g => (r * radix + g) % chkMod) 0 = mod37 (asm5 v) := by
  induction v using List.reverseRecOn with
  | nil => rfl
  | append_singleton v x ih =>
    rw [List.foldl_append, ih, asm5_append_singleton]
    simp only [List.foldl_cons, List.foldl_nil, mod37, radix, chkMod]
    omega

/-- Settles O51: the groups of n assemble to n, so the general law gives its remainder. -/
theorem mod37IterativeForm : Obligations.Mod37IterativeForm := by
  refine ⟨fun n => ?_, foldl_mod_eq_mod37_asm5, fun r g hr hg => ⟨by omega, by omega⟩⟩
  rw [mod37Iter, foldl_mod_eq_mod37_asm5, asm5_part5]

end Sys2Proof.Machine
end

section
/-! PROOF. The hyphen formatter HYPH (spec/40_datapath_units.md R74, R75). -/

namespace Sys2Proof.Machine

/-- The index form of R74, for a string whose first character stands at index i of a longer one. -/
theorem hyph_eq_flatMap_zipIdx (s : Str) (k i : Nat) :
    hyph s k = (s.zipIdx i).flatMap fun p =>
      p.1 :: (if 0 < i + s.length - 1 - p.2 ∧ (i + s.length - 1 - p.2) % k = 0 then [hyphen] else []) := by
  induction s generalizing i with
  | nil => rfl
  | cons c s ih =>
    have hright : i + (s.length + 1) - 1 - i = s.length := by omega
    have hshift : i + (s.length + 1) = i + 1 + s.length := by omega
    rw [hyph_cons, List.zipIdx_cons, List.flatMap_cons, List.length_cons, hright, hshift, ← ih (i + 1)]
    split <;> rfl

/-- R74 the other way: the pieces cut from the right. A new character on the left closes the first piece when that piece is
full, and joins it otherwise. -/
theorem hyph_pieces (s : Str) {k : Nat} (hk : 1 ≤ k) (hs : s ≠ []) : ∃ (first : Str) (pieces : List Str),
    s = first ++ pieces.flatten ∧ hyph s k = first ++ pieces.flatMap (fun p => hyphen :: p) ∧
    1 ≤ first.length ∧ first.length ≤ k ∧ ∀ p ∈ pieces, p.length = k := by
  induction s with
  | nil => exact absurd rfl hs
  | cons c s ih =>
    rcases eq_or_ne s [] with rfl | hs'
    · exact ⟨[c], [], by simp, by simp [hyph_cons], le_rfl, hk, by simp⟩
    obtain ⟨first, pieces, hcut, hjoin, hpos, hle, hlen⟩ := ih hs'
    have hmod : s.length % k = first.length % k := by
      have hsum : pieces.flatten.length = pieces.length * k := by
        rw [List.length_flatten, List.map_congr_left hlen, List.map_const', List.sum_replicate, smul_eq_mul]
      rw [hcut, List.length_append, hsum, Nat.add_mul_mod_self_right]
    have hpos' : 0 < s.length := List.length_pos_of_ne_nil hs'
    rcases hle.eq_or_lt with hfull | hroom
    · refine ⟨[c], first :: pieces, by simp [hcut], ?_, le_rfl, hk, by simpa [hfull] using hlen⟩
      rw [hyph_cons, if_pos ⟨hpos', by rw [hmod, hfull, Nat.mod_self]⟩, hjoin]
      rfl
    · refine ⟨c :: first, pieces, by simp [hcut], ?_, by simp, hroom, hlen⟩
      rw [hyph_cons, if_neg (fun h => by rw [hmod, Nat.mod_eq_of_lt hroom] at h; omega), hjoin]
      rfl

/-- Settles O53, both forms by induction on the string, from its left end. -/
theorem hyphForm : Obligations.HyphForm := by
  refine fun s k hk => ⟨?_, hyph_pieces s hk⟩
  simpa [hyphen, chr] using hyph_eq_flatMap_zipIdx s k 0

/-- CNT of R75 when n characters have been emitted: those since the last hyphen. -/
def cntAfter (n k : Nat) : Nat := if n = 0 then 0 else (n - 1) % k + 1

/-- CNT reaches k exactly where R74 places a hyphen. -/
theorem cntAfter_eq_iff {n k : Nat} (hk : 1 ≤ k) : cntAfter n k = k ↔ 0 < n ∧ n % k = 0 := by
  obtain ⟨j, rfl⟩ := Nat.exists_eq_add_of_le' hk
  cases n with
  | zero => simp [cntAfter]
  | succ n => simp [cntAfter, Nat.succ_mod_succ_eq_zero_iff]

/-- The step of the counter: a hyphen and a new count where it has reached k, one character more elsewhere. -/
theorem cntAfter_succ {n k : Nat} (hk : 1 ≤ k) : cntAfter (n + 1) k = if cntAfter n k = k then 1 else cntAfter n k + 1 := by
  split
  next hfull => simp [cntAfter, ((cntAfter_eq_iff hk).1 hfull).2]
  next hroom =>
    cases n with
    | zero => simp [cntAfter]
    | succ n =>
      have hlt : n % k < k := Nat.mod_lt n hk
      have hne : n % k + 1 ≠ k := by simpa [cntAfter] using hroom
      simp [cntAfter, ← Nat.mod_add_mod n k 1, Nat.mod_eq_of_lt (show n % k + 1 < k by omega)]

/-- One round of the walk of R75, on the string emitted so far and CNT. -/
def counterStep (k : Nat) (c : Chr) (p : Str × Nat) : Str × Nat :=
  if p.2 = k then (c :: hyphen :: p.1, 1) else (c :: p.1, p.2 + 1)

theorem hyphIter_eq_foldr (s : Str) (k : Nat) : hyphIter s k = (s.foldr (counterStep k) ([], 0)).1 := rfl

/-- The walk of R75 has emitted HYPH of the characters passed, and its counter stands as their number says. -/
theorem foldr_counterStep (s : Str) {k : Nat} (hk : 1 ≤ k) :
    s.foldr (counterStep k) ([], 0) = (hyph s k, cntAfter s.length k) := by
  induction s with
  | nil => rfl
  | cons c s ih =>
    rw [List.foldr_cons, ih, counterStep, List.length_cons, cntAfter_succ hk, hyph_cons]
    simp only [← cntAfter_eq_iff hk]
    split <;> rfl

/-- Settles O54: the walk's string is HYPH at every round, because its counter is `cntAfter` (`foldr_counterStep`). -/
theorem hyphIterativeForm : Obligations.HyphIterativeForm := by
  intro s k hk
  rw [hyphIter_eq_foldr, foldr_counterStep s hk]

end Sys2Proof.Machine
end

section
/-! PROOF. The command ENC: its words, the operands it reads, and its outcome (spec/41_encode.md R77, R78, R80). -/

namespace Sys2Proof.Machine

/-- R46, R47: the word `00SLC000` passes the checks of R53 and selects ENC. -/
theorem decodeCmd_encWord (c l sp : Bool) :
    decodeCmd (0#2 ++ BitVec.ofBool sp ++ BitVec.ofBool l ++ BitVec.ofBool c ++ 0#3) = .ok (.enc c l sp) := by
  revert c l sp
  decide

/-- R49: an option read on this hardware, for a register that is written wherever the option is present. -/
theorem readOption_b32c_of_written {present : Bool} {v : Option Nat} {k : Nat} (r : Operand) (h : present = true → v = some k) :
    readOption b32c present r v = .ok (if present then some k else none) := by
  cases present with
  | false => rfl
  | true => simp [h rfl, readOption, readOperand, Except.map]

/-- R80: SPL = 0 is a fault before NUM and LEN are read. -/
theorem encResult_of_split_zero (c l : Bool) {s : State} (h : s.spl = some 0) :
    encResult b32c c l true s = .ok (.fault .invalidOption) := by
  have hspl : readSpl b32c true s = .ok (some 0) := readOption_b32c_of_written .spl fun _ => h
  simp [encResult, hspl]

/-- R77: the outcome of ENC on written operands, its options in range. -/
theorem encResult_of_written (c : Bool) {l sp : Bool} {s : State} {n m k : Nat} (hnum : s.num = some n)
    (hlen : l = true → s.len = some m) (hspl : sp = true → s.spl = some k) (hk : ¬(sp = true ∧ k = 0)) :
    encResult b32c c l sp s =
      .ok (.str (encString b32c c (if l then some m else none) (if sp then some k else none) n)) := by
  have hsplit : readSpl b32c sp s = .ok (if sp then some k else none) := readOption_b32c_of_written .spl hspl
  have hlength : readLen b32c l s = .ok (if l then some m else none) := readOption_b32c_of_written .len hlen
  have hnumber : readNum b32c s = .ok n := by simp [readNum, readOperand, hnum]
  have hrange : (if sp then some k else none) ≠ some 0 := by simpa using hk
  simp [encResult, hsplit, hrange, hnumber, hlength]

/-- R78: the four stages of ENC in their order, by the options' presence bits. -/
theorem encString_stages (cfg : Config) (c l sp : Bool) (n m k : Nat) :
    encString cfg c (if l then some m else none) (if sp then some k else none) n =
      let symbols := (part5 n).map (alphaSym cfg)
      let suffixed := if c = true then symbols ++ [comb cfg (mod37 n)] else symbols
      let padded := if l = true then pad cfg suffixed m else suffixed
      if sp = true then hyph padded k else padded := by
  cases l <;> cases sp <;> rfl

/-- Settles O9: with SPL = 0 the check of R80 decides the outcome, and without it the four stages of R78 do. -/
theorem encCommandMeaning : Obligations.EncCommandMeaning := by
  intro c l sp s n m k hnum hlen hspl
  refine ⟨decodeCmd_encWord c l sp, ?_, fun hk => ?_⟩
  · rintro ⟨rfl, rfl⟩
    exact ends_of_outcomeOf (encResult_of_split_zero c l (hspl rfl))
  · have hout := encResult_of_written c hnum hlen hspl hk
    rw [encString_stages] at hout
    exact ends_of_outcomeOf hout

end Sys2Proof.Machine
end

section
/-! PROOF. The commands DEC and DECX: what the decoding of the input string gives, and their outcome from it
(spec/42_decode.md R81 to R84). -/

namespace Sys2Proof.Machine

/-- R81: a body whose cleaned characters are keys of DECM decodes to the number their values assemble to. -/
theorem decBody_of_values {body : Str} {v : List Nat} (h : (clean body).map (decm b32c) = v.map some) :
    decBody b32c body = .ok (some (asm5 v)) :=
  decLoop_of_values _ v 0 h

/-- R83: one cleaned character that is no key of DECM leaves the body without a number. -/
theorem decBody_of_miss {body : Str} (h : ∃ ch ∈ clean body, decm b32c ch = none) : decBody b32c body = .ok none :=
  decLoop_of_miss _ 0 h

/-- With W unbounded no body is refused. -/
theorem decBody_eq_ok (body : Str) : ∃ r, decBody b32c body = .ok r := by
  rcases values_or_miss (decm b32c) (clean body) with ⟨v, hv⟩ | hmiss
  · exact ⟨_, decBody_of_values hv⟩
  · exact ⟨_, decBody_of_miss hmiss⟩

@[simp] theorem decString_plain (cfg : Config) (x : Str) : decString cfg false x = decBody cfg x := rfl

@[simp] theorem decString_checksum_nil (cfg : Config) : decString cfg true [] = .ok none := rfl

/-- R82: in checksum mode the last raw character is tested against what the rest decodes to. -/
@[simp] theorem decString_checksum_append (body : Str) (k : Chr) :
    decString b32c true (body ++ [k]) = (decBody b32c body).map fun r => r.bind (checkSum b32c k) := by
  simp [decString]

/-- With W unbounded no input is refused. -/
theorem decString_eq_ok (c : Bool) (x : Str) : ∃ r, decString b32c c x = .ok r := by
  cases c with
  | false => exact decBody_eq_ok x
  | true =>
    rcases List.eq_nil_or_concat' x with rfl | ⟨body, k, rfl⟩
    · exact ⟨none, rfl⟩
    · obtain ⟨r, hr⟩ := decBody_eq_ok body
      exact ⟨r.bind (checkSum b32c k), by rw [decString_checksum_append, hr]; rfl⟩

theorem checkSum_of_match {cfg : Config} {k : Chr} {n : Nat} (h : decc cfg k = some (mod37 n)) : checkSum cfg k n = some n :=
  if_pos h

theorem checkSum_of_mismatch {cfg : Config} {k : Chr} {n : Nat} (h : decc cfg k ≠ some (mod37 n)) : checkSum cfg k n = none :=
  if_neg h

/-- R82: a body that decodes to n, with its checksum character tested against n. -/
theorem decString_checksum_of_number {body : Str} {n : Nat} (k : Chr) (h : decBody b32c body = .ok (some n)) :
    decString b32c true (body ++ [k]) = .ok (checkSum b32c k n) := by
  rw [decString_checksum_append, h]
  rfl

/-- R82, failure (a): no checksum character mends a body without a number. -/
theorem decString_checksum_of_miss {body : Str} (k : Chr) (h : decBody b32c body = .ok none) :
    decString b32c true (body ++ [k]) = .ok none := by
  rw [decString_checksum_append, h]
  rfl

/-- R82 point 2: a checksum character that is no key of DECC leaves no number, whatever the body. -/
theorem decString_checksum_of_decc_miss (body : Str) {k : Chr} (h : decc b32c k = none) :
    decString b32c true (body ++ [k]) = .ok none := by
  obtain ⟨r, hr⟩ := decBody_eq_ok body
  cases r with
  | none => exact decString_checksum_of_miss k hr
  | some n => rw [decString_checksum_of_number k hr, checkSum_of_mismatch (by simp [h])]

/-- DEC ends as the decoding of its input says. -/
theorem ends_dec {c : Bool} {s : State} {x : Str} {r : Option Nat} (hin : HoldsIn s x) (h : decString b32c c x = .ok r) :
    Ends (.dec c) s (numOr .noResult r) :=
  ends_of_outcomeOf (by simp [outcomeOf, decResult, readIn_eq_ok.2 hin, h, Except.map])

/-- DECX ends as the decoding of the same input says (R84, DECX_FORWARDS_CHECKSUM true). -/
theorem ends_decx {c : Bool} {s : State} {x : Str} {r : Option Nat} (hin : HoldsIn s x) (h : decString b32c c x = .ok r) :
    Ends (.decx c) s (numOr (.fault .malformedInput) r) :=
  ends_of_outcomeOf (by simp [outcomeOf, decxResult, readIn_eq_ok.2 hin, h, Except.map])

/-- A number is the result of both commands (R84). -/
theorem ends_num_of_decString {c : Bool} {s : State} {x : Str} {n : Nat} (hin : HoldsIn s x)
    (h : decString b32c c x = .ok (some n)) : Ends (.dec c) s (.num n) ∧ Ends (.decx c) s (.num n) :=
  ⟨ends_dec hin h, ends_decx hin h⟩

/-- No number is NO_RESULT for DEC and MALFORMED_INPUT for DECX (R84). -/
theorem ends_failed_of_decString {c : Bool} {s : State} {x : Str} (hin : HoldsIn s x) (h : decString b32c c x = .ok none) :
    Ends (.dec c) s .noResult ∧ Ends (.decx c) s (.fault .malformedInput) :=
  ⟨ends_dec hin h, ends_decx hin h⟩

/-- Settles O15: the two outcomes of the decoding loop on the cleaned input. -/
theorem decPlainMeaning : Obligations.DecPlainMeaning := fun _s _x hin =>
  ⟨by decide, fun _v hv => ends_dec (c := false) hin (decBody_of_values hv),
    fun hmiss => ends_dec (c := false) hin (decBody_of_miss hmiss)⟩

/-- Settles O16: the body decides failure (a), and the test of the checksum character against the body's number failure (b). -/
theorem decChecksumMeaning : Obligations.DecChecksumMeaning := by
  refine fun s x hin => ⟨by decide, ?_, ?_⟩
  · rintro rfl
    exact ends_dec hin (decString_checksum_nil b32c)
  · rintro body k rfl
    refine ⟨fun v hv => ?_, fun hmiss => ends_dec hin (decString_checksum_of_miss k (decBody_of_miss hmiss))⟩
    have hnum := decString_checksum_of_number k (decBody_of_values hv)
    refine ⟨fun hmatch => ?_, fun hmismatch => ?_⟩
    · exact ends_dec hin (hnum.trans (congrArg _ (checkSum_of_match hmatch)))
    · exact ends_dec hin (hnum.trans (congrArg _ (checkSum_of_mismatch hmismatch)))

/-- Where DECX does not forward the checksum option, it decodes the whole input in both modes (R84). -/
theorem decxResult_of_not_forwarding {cfg : Config} (s : State) (h : cfg.decxForwardsChecksum = false) :
    decxResult cfg true s = decxResult cfg false s := by
  simp [decxResult, h]

/-- Both commands end by the one decoding of the input, which gives a number or none (R84). -/
theorem ends_num_or_failed (c : Bool) {s : State} {x : Str} (hin : HoldsIn s x) :
    (∃ n, Ends (.dec c) s (.num n) ∧ Ends (.decx c) s (.num n)) ∨
    (Ends (.dec c) s .noResult ∧ Ends (.decx c) s (.fault .malformedInput)) := by
  obtain ⟨r, hr⟩ := decString_eq_ok c x
  cases r with
  | some n => exact .inl ⟨n, ends_num_of_decString hin hr⟩
  | none => exact .inr (ends_failed_of_decString hin hr)

/-- Settles O17: `ends_num_or_failed` with this hardware's parameter, and the other value of the parameter beside it. -/
theorem decxFollowsDec : Obligations.DecxFollowsDec :=
  ⟨by decide, by decide, fun c _ _ hin => ends_num_or_failed c hin, fun _ s h => decxResult_of_not_forwarding s h⟩

end Sys2Proof.Machine
end

section
/-! PROOF. The corner cases of DEC and DECX (spec/42_decode.md R86): the characters the decode tables do not hold, and the
string of symbols that decodes to a given number. -/

namespace Sys2Proof.Machine

/-- The keys of DECC with value 0: the zero symbol and its synonym. -/
theorem decc_eq_zero_iff : ∀ k : Chr, decc b32c k = some 0 ↔ k = chr '0' ∨ k = chr 'O' := by decide +kernel

theorem decc_hyphen : decc b32c hyphen = none := by decide

theorem decm_eq_none_of_decc {cfg : Config} {c : Chr} (h : decc cfg c = none) : decm cfg c = none := by
  cases hm : decm cfg c with
  | none => rfl
  | some v => simp [decc, hm] at h

/-- R86 items 6 and 7: the marker, spaces, control characters and codes from 0x7F up are in no decode table. -/
theorem decc_of_unaccepted :
    ∀ ch : Chr, (ch = invalidMark ∨ ch.toNat ≤ 0x20 ∨ 0x7F ≤ ch.toNat) → decc b32c ch = none := by decide +kernel

/-- CLEAN keeps such a character, since it is no hyphen and no letter. -/
theorem mem_clean_of_unaccepted {ch : Chr} {x : Str} (hmem : ch ∈ x)
    (h : ch = invalidMark ∨ ch.toNat ≤ 0x20 ∨ 0x7F ≤ ch.toNat) : ch ∈ clean x := by
  have hcode : ch.toNat = 0x3F ∨ ch.toNat ≤ 0x20 ∨ 0x7F ≤ ch.toNat := h.imp_left (congrArg BitVec.toNat)
  have hhyphen : ch ≠ hyphen := by
    rintro rfl
    exact absurd hcode (by decide)
  have hup : up ch = ch := up_of_not_lower (by omega)
  rw [clean_eq_flatMap, List.mem_flatMap]
  exact ⟨ch, hmem, by simp [hhyphen, hup]⟩

/-- R86 items 6 and 7: such a character leaves no number, in the body as a miss of DECM and in the last place as one of DECC. -/
theorem decString_of_unaccepted (c : Bool) {ch : Chr} {x : Str} (hmem : ch ∈ x)
    (h : ch = invalidMark ∨ ch.toNat ≤ 0x20 ∨ 0x7F ≤ ch.toNat) : decString b32c c x = .ok none := by
  have hdecc := decc_of_unaccepted ch h
  have hbody {body : Str} (hb : ch ∈ body) : decBody b32c body = .ok none :=
    decBody_of_miss ⟨ch, mem_clean_of_unaccepted hb h, decm_eq_none_of_decc hdecc⟩
  cases c with
  | false => exact hbody hmem
  | true =>
    rcases List.eq_nil_or_concat' x with rfl | ⟨body, k, rfl⟩
    · rfl
    rcases List.mem_append.1 hmem with hb | hk
    · exact decString_checksum_of_miss k (hbody hb)
    · obtain rfl := List.mem_singleton.1 hk
      exact decString_checksum_of_decc_miss body hdecc

theorem decBody_of_clean_nil {x : Str} (h : clean x = []) : decBody b32c x = .ok (some 0) :=
  decBody_of_values (v := []) (by rw [h]; rfl)

/-- R86 item 3: over the empty body the checksum character is tested against 0. -/
theorem decString_checksum_singleton (k : Chr) : decString b32c true [k] = .ok (checkSum b32c k 0) :=
  decString_checksum_of_number (body := []) k (decBody_of_clean_nil clean_nil)

/-- R86 item 5: CLEAN takes the hyphen at the end of the body away. -/
theorem decString_checksum_append_hyphen (body : Str) (k : Chr) :
    decString b32c true (body ++ [hyphen, k]) = decString b32c true (body ++ [k]) := by
  have hsplit : body ++ [hyphen, k] = (body ++ [hyphen]) ++ [k] := by simp
  have hclean : decBody b32c (body ++ [hyphen]) = decBody b32c body := by simp [decBody]
  rw [hsplit, decString_checksum_append, decString_checksum_append, hclean]

/-- Every symbol of ALPHA survives CLEAN and is looked up to its own value (R60, R66). -/
theorem alphaSym_accepted : ∀ v < 32, alphaSym b32c v ≠ hyphen ∧ decm b32c (up (alphaSym b32c v)) = some v := by decide

theorem map_decm_clean_symbols {v : List Nat} (h : ∀ x ∈ v, x < 32) :
    (clean (v.map (alphaSym b32c))).map (decm b32c) = v.map some := by
  induction v with
  | nil => rfl
  | cons x v ih =>
    rw [List.forall_mem_cons] at h
    obtain ⟨hhyphen, hvalue⟩ := alphaSym_accepted x h.1
    simp [hhyphen, hvalue, ih h.2]

theorem lt_of_mem_part5 {n x : Nat} (h : x ∈ part5 n) : x < 32 := by
  obtain ⟨i, -, rfl⟩ := List.mem_map.1 h
  exact Nat.mod_lt _ (by decide)

/-- The symbols of the groups of n decode to n. -/
theorem decBody_symbols_part5 (n : Nat) : decBody b32c ((part5 n).map (alphaSym b32c)) = .ok (some n) := by
  rw [decBody_of_values (map_decm_clean_symbols fun _ => lt_of_mem_part5), asm5_part5]

/-- R86 item 3: a one-character input in checksum mode. -/
theorem ends_checksum_singleton {s : State} {k : Chr} (hin : HoldsIn s [k]) :
    ((k = chr '0' ∨ k = chr 'O') → Ends (.dec true) s (.num 0) ∧ Ends (.decx true) s (.num 0)) ∧
    (¬(k = chr '0' ∨ k = chr 'O') → Ends (.dec true) s .noResult ∧ Ends (.decx true) s (.fault .malformedInput)) := by
  have hout := decString_checksum_singleton k
  constructor
  · intro hzero
    rw [checkSum_of_match ((decc_eq_zero_iff k).2 hzero)] at hout
    exact ends_num_of_decString hin hout
  · intro hother
    rw [checkSum_of_mismatch (mt (decc_eq_zero_iff k).1 hother)] at hout
    exact ends_failed_of_decString hin hout

/-- Settles O19, the clauses in the order of R86, each from what the decoding of the input gives. -/
theorem decCornerCases : Obligations.DecCornerCases := by
  refine ⟨fun s x hin h => ?emptyCleaned, fun s hin => ?noChecksum, fun s k hin => ?oneCharacter, fun s body hin => ?lastHyphen,
    fun s u body k hs hu => ?hyphenBefore, fun c s x ch hin hmem h => ?unaccepted, fun c s x hin => ?total, fun n => ?onto⟩
  case emptyCleaned => exact ends_num_of_decString hin (decBody_of_clean_nil h)
  case noChecksum => exact ends_failed_of_decString hin (decString_checksum_nil b32c)
  case oneCharacter => exact ends_checksum_singleton hin
  case lastHyphen => exact ends_failed_of_decString hin (decString_checksum_of_decc_miss body decc_hyphen)
  case hyphenBefore =>
    obtain ⟨r, hr⟩ := decString_eq_ok true (body ++ [k])
    exact ⟨_, ends_dec hs hr, ends_dec hu ((decString_checksum_append_hyphen body k).trans hr)⟩
  case unaccepted => exact ends_failed_of_decString hin (decString_of_unaccepted c hmem h)
  case total => exact (ends_num_or_failed c hin).imp (fun ⟨n, hdec, _⟩ => ⟨n, hdec⟩) And.left
  case onto => exact ⟨(part5 n).map (alphaSym b32c), fun s hin => ends_dec (c := false) hin (decBody_symbols_part5 n)⟩

end Sys2Proof.Machine
end

section
/-! PROOF. The commands NORM and VALID: the normalised string, the flag from it, and their outcome
(spec/43_normalize_validate.md R87, R88, R90). -/

namespace Sys2Proof.Machine

@[simp] theorem normString_plain (cfg : Config) (x : Str) : normString cfg false x = normBody cfg x := rfl

@[simp] theorem normString_checksum_nil (cfg : Config) : normString cfg true [] = [] := rfl

/-- R88: in checksum mode the last raw character is held aside. -/
@[simp] theorem normString_checksum_append (cfg : Config) (body : Str) (k : Chr) :
    normString cfg true (body ++ [k]) = normBody cfg body ++ [k] := by
  simp [normString]

@[simp] theorem validFlag_eq_true_iff {y : Str} : validFlag y = true ↔ invalidMark ∉ y := by simp [validFlag]

@[simp] theorem validFlag_eq_false_iff {y : Str} : validFlag y = false ↔ invalidMark ∈ y := by simp [validFlag]

/-- NORM ends with the normalised string of its input, whatever the input. -/
theorem ends_norm (c : Bool) {s : State} {x : Str} (hin : HoldsIn s x) :
    Ends (.norm c) s (.str (normString b32c c x)) :=
  ends_of_outcomeOf (by simp [outcomeOf, normResult_b32c, readIn_eq_ok.2 hin, Except.map])

/-- The one flag VALID ends with is that of the normalised string. -/
theorem ends_valid_iff {c : Bool} {s : State} {x : Str} (hin : HoldsIn s x) (b : Bool) :
    Ends (.valid c) s (.flag b) ↔ validFlag (normString b32c c x) = b := by
  simp [ends_iff, outcomeOf, validResult_b32c, readIn_eq_ok.2 hin, Except.map]

theorem ends_valid (c : Bool) {s : State} {x : Str} (hin : HoldsIn s x) :
    Ends (.valid c) s (.flag (validFlag (normString b32c c x))) :=
  (ends_valid_iff hin _).2 rfl

/-- Settles O24: the mapping in the statement is NSYM written out. -/
theorem normPlainMeaning : Obligations.NormPlainMeaning :=
  fun _s _x hin => ⟨by decide, ends_norm false hin⟩

/-- Settles O25: `normString_checksum_append` takes the last raw character off, and the mapping in the statement is NSYM
written out. -/
theorem normChecksumMeaning : Obligations.NormChecksumMeaning := by
  refine fun s x hin => ⟨by decide, ?_, ?_⟩
  · rintro rfl
    exact ends_norm true hin
  · rintro body k rfl
    have hnorm := ends_norm true hin
    rw [normString_checksum_append] at hnorm
    exact hnorm

/-- Settles O27: both commands end by the one normalised string, and its flag says whether the marker is in it. -/
theorem validFollowsNorm : Obligations.ValidFollowsNorm :=
  ⟨by decide, by decide, fun c _s _x hin => ⟨_, _, ends_norm c hin, ends_valid c hin, validFlag_eq_true_iff⟩⟩

end Sys2Proof.Machine
end

section
/-! PROOF. The canonical symbols NSYM writes, and the properties of a normalised string (spec/43_normalize_validate.md R87,
R89). -/

namespace Sys2Proof.Machine

theorem nsym_of_some {cfg : Config} {c : Chr} {v : Nat} (h : decm cfg c = some v) : nsym cfg c = alphaSym cfg v := by
  simp [nsym, h]

theorem nsym_of_none {cfg : Config} {c : Chr} (h : decm cfg c = none) : nsym cfg c = invalidMark := by simp [nsym, h]

/-- The values of DECM are those of the 32 symbols (R60). -/
theorem decm_lt : ∀ c : Chr, ∀ v ∈ decm b32c c, v < 32 := by decide +kernel

theorem decm_invalidMark : decm b32c invalidMark = none := decm_eq_none_of_decc (decc_of_unaccepted _ (.inl rfl))

/-- Every symbol of ALPHA is in the table and is looked up to its own value (R60). -/
theorem alphaSym_mem_decm : ∀ v < 32, alphaSym b32c v ∈ b32c.alpha ∧ decm b32c (alphaSym b32c v) = some v := by decide

/-- The symbols of ALPHA and the marker are no hyphen, no lower-case letter and no synonym (R58). -/
theorem canonical_of_mem :
    ∀ ch ∈ b32c.alpha ++ [invalidMark], ch ≠ hyphen ∧ up ch = ch ∧ synonym ch = none := by decide

theorem nsym_mem (c : Chr) : nsym b32c c ∈ b32c.alpha ++ [invalidMark] := by
  cases h : decm b32c c with
  | none => simp [nsym_of_none h]
  | some v =>
    rw [nsym_of_some h]
    exact List.mem_append_left _ (alphaSym_mem_decm v (decm_lt c v h)).1

/-- The canonical symbol of a character is looked up as the character itself, the marker as a miss. -/
@[simp] theorem decm_nsym (c : Chr) : decm b32c (nsym b32c c) = decm b32c c := by
  cases h : decm b32c c with
  | none => rw [nsym_of_none h, decm_invalidMark]
  | some v => rw [nsym_of_some h, (alphaSym_mem_decm v (decm_lt c v h)).2]

theorem nsym_congr {cfg : Config} {c d : Chr} (h : decm cfg c = decm cfg d) : nsym cfg c = nsym cfg d := by simp [nsym, h]

@[simp] theorem nsym_nsym (c : Chr) : nsym b32c (nsym b32c c) = nsym b32c c := nsym_congr (decm_nsym c)

/-- The marker stands exactly where the lookup missed: no symbol is the marker. -/
theorem nsym_eq_invalidMark_iff {c : Chr} : nsym b32c c = invalidMark ↔ decm b32c c = none := by
  refine ⟨fun h => ?_, nsym_of_none⟩
  rw [← decm_nsym, h, decm_invalidMark]

theorem canonical_of_mem_normBody {x : Str} {ch : Chr} (h : ch ∈ normBody b32c x) :
    (ch ∈ b32c.alpha ∨ ch = invalidMark) ∧ ch ≠ hyphen ∧ up ch = ch ∧ synonym ch = none := by
  obtain ⟨c, -, rfl⟩ := List.mem_map.1 h
  have hmem := nsym_mem c
  exact ⟨by simpa using hmem, canonical_of_mem _ hmem⟩

theorem clean_eq_self {y : Str} (h : ∀ ch ∈ y, ch ≠ hyphen ∧ up ch = ch) : clean y = y := by
  induction y with
  | nil => rfl
  | cons c y ih =>
    obtain ⟨⟨hhyphen, hup⟩, hy⟩ := List.forall_mem_cons.1 h
    simp [hhyphen, hup, ih hy]

/-- CLEAN finds nothing to do in a normalised body. -/
@[simp] theorem clean_normBody (x : Str) : clean (normBody b32c x) = normBody b32c x := by
  refine clean_eq_self fun ch hch => ?_
  obtain ⟨-, hhyphen, hup, -⟩ := canonical_of_mem_normBody hch
  exact ⟨hhyphen, hup⟩

@[simp] theorem length_normBody (cfg : Config) (x : Str) : (normBody cfg x).length = (clean x).length := by simp [normBody]

@[simp] theorem normBody_normBody (x : Str) : normBody b32c (normBody b32c x) = normBody b32c x := by
  rw [normBody, clean_normBody]
  simp [normBody]

/-- The decoding loop sees of a body only what DECM says of its characters. -/
theorem decLoop_congr {cfg : Config} {t u : Str} (acc : Nat) (h : t.map (decm cfg) = u.map (decm cfg)) :
    decLoop cfg acc t = decLoop cfg acc u := by
  induction t generalizing u acc with
  | nil =>
    obtain rfl := List.map_eq_nil_iff.1 h.symm
    rfl
  | cons c t ih =>
    cases u with
    | nil => simp at h
    | cons d u =>
      obtain ⟨hhead, htail⟩ := List.cons_eq_cons.1 h
      simp only [decLoop, hhead, ih _ htail]

/-- Normalising a body does not change what it decodes to, a body with no number included. -/
theorem decBody_normBody (x : Str) : decBody b32c (normBody b32c x) = decBody b32c x := by
  rw [decBody, clean_normBody]
  exact decLoop_congr 0 (by simp [normBody])

/-- Settles O26: the four properties are those of `normBody`, and DEC of the normalised string agrees even where a marker stands
in it (`decBody_normBody`). -/
theorem normNeverFailsAndIsCanonical : Obligations.NormNeverFailsAndIsCanonical := by
  refine fun c s x hin => ⟨⟨_, ends_valid c hin⟩, _, ends_norm c hin, ?plain, ?checksum⟩
  case plain =>
    rintro rfl
    refine ⟨length_normBody b32c x, ?_, fun ch => canonical_of_mem_normBody, fun u hu => ?_, fun _ u hu => ?_⟩
    · rw [normString_plain, length_normBody, length_clean_add_count]
    · simpa using ends_norm false hu
    · obtain ⟨r, hr⟩ := decBody_eq_ok x
      exact ⟨_, ends_dec (c := false) hin hr, ends_dec (c := false) hu ((decBody_normBody x).trans hr)⟩
  case checksum =>
    rintro rfl body k rfl
    simp

end Sys2Proof.Machine
end

section
/-! PROOF. The corner cases of NORM and VALID (spec/43_normalize_validate.md R91). -/

namespace Sys2Proof.Machine

theorem normBody_of_clean_nil (cfg : Config) {x : Str} (h : clean x = []) : normBody cfg x = [] := by simp [normBody, h]

/-- R91 item 3: over the empty body the normalised string is the checksum character. -/
theorem normString_checksum_singleton (cfg : Config) (k : Chr) : normString cfg true [k] = [k] :=
  normString_checksum_append cfg [] k

/-- The marker stands in a normalised body exactly where some cleaned character is no key of DECM. -/
theorem invalidMark_mem_normBody_iff {x : Str} : invalidMark ∈ normBody b32c x ↔ ∃ ch ∈ clean x, decm b32c ch = none := by
  simp [normBody, nsym_eq_invalidMark_iff]

/-- R91 item 4: the miss that puts the marker into the normalised string is the miss by which DEC fails. -/
theorem validFlag_normBody_iff (x : Str) :
    validFlag (normBody b32c x) = true ↔ ∃ n, decBody b32c x = .ok (some n) := by
  rw [validFlag_eq_true_iff, invalidMark_mem_normBody_iff]
  rcases values_or_miss (decm b32c) (clean x) with ⟨v, hv⟩ | hmiss
  · have hkeys : ¬∃ ch ∈ clean x, decm b32c ch = none := by
      rintro ⟨ch, hmem, hnone⟩
      have himage := List.mem_map_of_mem (f := decm b32c) hmem
      simp [hv, hnone] at himage
    simp [hkeys, decBody_of_values hv]
  · simp [hmiss, decBody_of_miss hmiss]

theorem ends_dec_num_iff {c : Bool} {s : State} {x : Str} (hin : HoldsIn s x) (n : Nat) :
    Ends (.dec c) s (.num n) ↔ decString b32c c x = .ok (some n) := by
  refine ⟨fun h => ?_, fun h => ends_dec hin h⟩
  obtain ⟨r, hr⟩ := decString_eq_ok c x
  have hout := (ends_iff.1 (ends_dec hin hr)).symm.trans (ends_iff.1 h)
  cases r with
  | none => simp [numOr] at hout
  | some m => simpa [numOr, hr] using hout

/-- R91 item 4: VALID without the checksum option foretells DEC. -/
theorem ends_valid_true_iff_dec {s : State} {x : Str} (hin : HoldsIn s x) :
    Ends (.valid false) s (.flag true) ↔ ∃ n, Ends (.dec false) s (.num n) := by
  simp only [ends_valid_iff hin, ends_dec_num_iff hin, normString_plain, decString_plain, validFlag_normBody_iff]

/-- VALID ends with one flag: 0 exactly where not 1. -/
theorem ends_valid_false_iff {c : Bool} {s : State} {x : Str} (hin : HoldsIn s x) :
    Ends (.valid c) s (.flag false) ↔ ¬Ends (.valid c) s (.flag true) := by
  rw [ends_valid_iff hin, ends_valid_iff hin, Bool.not_eq_true]

/-- R91 item 6: a marker in the input is a miss of DECM in the body, and is kept as it is in the last place. -/
theorem invalidMark_mem_normString (c : Bool) {x : Str} (h : invalidMark ∈ x) : invalidMark ∈ normString b32c c x := by
  have hbody {body : Str} (hb : invalidMark ∈ body) : invalidMark ∈ normBody b32c body :=
    invalidMark_mem_normBody_iff.2 ⟨_, mem_clean_of_unaccepted hb (.inl rfl), decm_invalidMark⟩
  cases c with
  | false => exact hbody h
  | true =>
    rcases List.eq_nil_or_concat' x with rfl | ⟨body, k, rfl⟩
    · exact h
    rw [normString_checksum_append, List.mem_append]
    exact (List.mem_append.1 h).imp_left hbody

/-- Settles O28, the clauses in the order of R91, each from the normalised string of the input. -/
theorem normValidCornerCases : Obligations.NormValidCornerCases := by
  refine ⟨fun s x hin h => ?emptyCleaned, fun s hin => ?emptyInput, fun s k hin => ?oneCharacter, fun s x hin => ?foretellsDec,
    fun s hin => ?wrongChecksum, fun s x hx hin => ?lastUnread, fun c s x hin h => ?marker, fun s hin => ?modesDiffer⟩
  case emptyCleaned =>
    have hnorm : normString b32c false x = [] := normBody_of_clean_nil b32c (clean_of_all_hyphen h)
    exact ⟨hnorm ▸ ends_norm false hin, (ends_valid_iff hin _).2 (congrArg validFlag hnorm)⟩
  case emptyInput => exact ⟨ends_norm true hin, ends_valid true hin⟩
  case oneCharacter =>
    rw [ends_valid_false_iff hin, ends_valid_iff hin, normString_checksum_singleton, validFlag_eq_true_iff,
      List.mem_singleton, eq_comm, not_not]
    exact ⟨ends_norm true hin, Iff.rfl, Iff.rfl⟩
  case foretellsDec =>
    exact ⟨ends_valid_true_iff_dec hin, (ends_valid_false_iff hin).trans (not_congr (ends_valid_true_iff_dec hin))⟩
  case wrongChecksum => exact ⟨(ends_valid_iff hin _).2 (by decide), ends_dec hin (r := none) rfl⟩
  case lastUnread =>
    have hvalid : ∀ y ∈ [str "16Jx", str "16J-", str "16J!"], validFlag (normString b32c true y) = true := by decide
    exact (ends_valid_iff hin _).2 (hvalid x hx)
  case marker => exact (ends_valid_iff hin _).2 (validFlag_eq_false_iff.2 (invalidMark_mem_normString c h))
  case modesDiffer =>
    exact ⟨ends_norm false hin, ends_valid false hin, ends_norm true hin, ends_valid true hin⟩

end Sys2Proof.Machine
end

section
/-! PROOF. Command words: the decoder and the encoder are inverse to each other on the well-formed fields
(spec/30_encoding.md R46 to R53), and the codes of STATUS (spec/10_state.md R18). -/

namespace Sys2Proof

@[simp] theorem CmdFields.toWord_ofWord : ∀ w : BitVec 8, (CmdFields.ofWord w).toWord = w := by decide +kernel

@[simp] theorem CmdFields.ofWord_toWord (f : CmdFields) : CmdFields.ofWord f.toWord = f := by
  obtain ⟨rsv, s, l, c, op⟩ := f
  revert rsv s l c op
  decide +kernel

theorem CmdFields.wellFormed_iff {f : CmdFields} :
    f.wellFormed = true ↔ f.op.toNat < 5 ∧ f.rsv = 0#2 ∧ (f.op = 0#3 ∨ (f.l = false ∧ f.s = false)) := by
  simp [wellFormed, opDefined, rsvZero, optionsRecognised, and_assoc]

/-- R53: the three checks together are the well-formedness of the fields. -/
theorem decodeFields_eq_ok_iff {f : CmdFields} {i : Instr} :
    decodeFields f = .ok i ↔ f.wellFormed = true ∧ selectOp f = i := by
  rw [CmdFields.wellFormed_iff]
  by_cases hop : f.op.toNat < 5
  case neg => simp [decodeFields_of_op (not_lt.1 hop), hop]
  by_cases hrsv : f.rsv = 0#2
  case neg => simp [decodeFields_of_rsv hop hrsv, hrsv]
  by_cases hoption : f.op = 0#3 ∨ (f.l = false ∧ f.s = false)
  case pos => simp [decodeFields_of_checks hop hrsv hoption, hop, hrsv, hoption]
  case neg =>
    obtain ⟨henc, hbits⟩ := not_or.1 hoption
    have hset : f.l = true ∨ f.s = true := by
      simpa only [not_and_or, Bool.not_eq_false] using hbits
    simp [decodeFields_of_option hop henc hset, hoption]

theorem encodeFields_wellFormed (i : Instr) : (encodeFields i).wellFormed = true := by
  cases i with
  | enc c l s => simp [CmdFields.wellFormed_iff, encodeFields]
  | _ c => simp [CmdFields.wellFormed_iff, encodeFields]

theorem selectOp_encodeFields (i : Instr) : selectOp (encodeFields i) = i := by cases i <;> rfl

/-- Well-formed fields hold no bit that the selected command does not carry. -/
theorem encodeFields_selectOp {f : CmdFields} (h : f.wellFormed = true) : encodeFields (selectOp f) = f := by
  obtain ⟨hop, hrsv, hoption⟩ := CmdFields.wellFormed_iff.1 h
  obtain ⟨rsv, s, l, c, op⟩ := f
  dsimp only at hop hrsv hoption
  subst hrsv
  rcases (by bv_omega : op = 0#3 ∨ op = 1#3 ∨ op = 2#3 ∨ op = 3#3 ∨ op = 4#3) with rfl | hop'
  · rfl
  · obtain ⟨rfl, rfl⟩ := hoption.resolve_left (by bv_omega)
    rcases hop' with rfl | rfl | rfl | rfl <;> rfl

/-- The fields that decode to i are those of i. -/
theorem decodeFields_eq_ok_iff_encodeFields {f : CmdFields} {i : Instr} : decodeFields f = .ok i ↔ f = encodeFields i := by
  rw [decodeFields_eq_ok_iff]
  constructor
  · rintro ⟨hwf, rfl⟩
    exact (encodeFields_selectOp hwf).symm
  · rintro rfl
    exact ⟨encodeFields_wellFormed i, selectOp_encodeFields i⟩

theorem decodeCmd_eq_ok_iff {w : BitVec 8} {i : Instr} : decodeCmd w = .ok i ↔ w = encode i := by
  rw [decodeCmd, decodeFields_eq_ok_iff_encodeFields, encode]
  constructor <;> intro h
  · rw [← h, CmdFields.toWord_ofWord]
  · rw [h, CmdFields.ofWord_toWord]

@[simp] theorem decodeCmd_encode (i : Instr) : decodeCmd (encode i) = .ok i := decodeCmd_eq_ok_iff.2 rfl

/-- Settles O1: words and fields are in bijection, and among the fields only those of i decode to i. -/
theorem decodeIffEncode : Obligations.DecodeIffEncode := fun _ _ => decodeCmd_eq_ok_iff

/-- Settles O2: the three checks of the decoder are those of `CmdFields.wellFormed`. -/
theorem decoderAcceptsWellFormedFields : Obligations.DecoderAcceptsWellFormedFields :=
  fun f => ⟨f.ofWord_toWord, by simp [decodeCmd, decodeFields_eq_ok_iff]⟩

/-- Settles O3: the words of R53 one by one, and the census over all 256 words. -/
theorem wordsOfR53 : Obligations.WordsOfR53 := by
  refine ⟨by decide, by decide, ?_, ?_, ?_⟩ <;> decide +kernel

namespace Machine

theorem toNat_statusCode_lt (x : Status) : (statusCode x).toNat < 5 := by cases x <;> decide

/-- Settles O34. -/
theorem statusCodes : Obligations.StatusCodes := ⟨rfl, rfl, rfl, rfl, rfl, toNat_statusCode_lt⟩

end Machine

end Sys2Proof
end

section
/-! PROOF. The decode tables for every table content that meets the constraints (spec/40_datapath_units.md R57 to R62). -/

namespace Sys2Proof.Machine

/-- What the proofs use of `Config.wellFormed`: the constraints on the tables as propositions with names. -/
structure TableLaws (cfg : Config) : Prop where
  length_alpha : cfg.alpha.length = 32
  length_chksym : cfg.chksym.length = 5
  nodup_alpha : cfg.alpha.Nodup
  nodup_chksym : cfg.chksym.Nodup
  not_mem_alpha : ∀ c ∈ cfg.chksym, c ∉ cfg.alpha
  ne_mark : ∀ c ∈ cfg.alpha ++ cfg.chksym, c ≠ invalidMark
  ne_hyphen : ∀ c ∈ cfg.alpha ++ cfg.chksym, c ≠ hyphen
  synonym_eq : ∀ c ∈ cfg.alpha ++ cfg.chksym, synonym c = none
  up_eq : ∀ c ∈ cfg.alpha ++ cfg.chksym, up c = c
  zero_eq : cfg.alpha[0]? = some (chr '0')
  one_eq : cfg.alpha[1]? = some (chr '1')

theorem tableLaws_of_wellFormed {cfg : Config} (h : cfg.wellFormed = true) : TableLaws cfg := by
  simp only [Config.wellFormed, Config.sizes, Config.alphaDistinct, Config.chksymDisjoint, Config.markReserved,
    Config.hyphenReserved, Config.synonymsReserved, Config.upperCase, Config.examplesFixed, Bool.and_eq_true, beq_iff_eq,
    decide_eq_true_eq, List.all_eq_true, Bool.not_eq_true', List.contains_eq_mem, decide_eq_false_iff_not,
    Option.isNone_iff_eq_none] at h
  obtain ⟨⟨⟨⟨⟨⟨⟨⟨halpha, hchksym⟩, hdistinct⟩, hnodup, hdisjoint⟩, hmarkA, hmarkC⟩, hhyphenA, hhyphenC⟩, hsynonym⟩, hup⟩,
    ⟨⟨⟨⟨hzero, hone⟩, -⟩, -⟩, -⟩, -⟩ := h
  refine ⟨halpha, hchksym, hdistinct, hnodup, hdisjoint, ?_, ?_, hsynonym, hup, hzero, hone⟩
  · rintro c hc rfl
    exact (List.mem_append.1 hc).elim hmarkA hmarkC
  · rintro c hc rfl
    exact (List.mem_append.1 hc).elim hhyphenA hhyphenC

theorem tableLaws_b32c : TableLaws b32c := tableLaws_of_wellFormed (by decide)

/-- The lookup of a symbol in its own list, for lists of distinct symbols. -/
theorem idxOf?_getElem {l : Str} (hl : l.Nodup) {i : Nat} (hi : i < l.length) : l.idxOf? l[i] = some i := by
  refine List.idxOf?_eq_some_iff.2 ⟨hi, rfl, fun j hj heq => ?_⟩
  exact absurd ((hl.getElem_inj_iff).1 heq) hj.ne

/-- R60: the characters that are accepted as another symbol. -/
theorem synonym_ne_none_iff {c : Chr} : synonym c ≠ none ↔ c ∈ [chr 'I', chr 'L', chr 'O'] := by
  revert c
  decide +kernel

theorem synonym_le_one {c : Chr} {v : Nat} (h : synonym c = some v) : v ≤ 1 := by
  unfold synonym at h
  split at h
  · exact (Option.some.inj h).ge
  · split at h
    · exact (Option.some.inj h).ge.trans zero_le_one
    · cases h

theorem decm_of_synonym {cfg : Config} {c : Chr} {v : Nat} (h : synonym c = some v) : decm cfg c = some v := by simp [decm, h]

theorem decm_of_not_synonym (cfg : Config) {c : Chr} (h : synonym c = none) : decm cfg c = cfg.alpha.idxOf? c := by
  simp [decm, h]

theorem decm_eq_none_iff {cfg : Config} {c : Chr} : decm cfg c = none ↔ synonym c = none ∧ c ∉ cfg.alpha := by
  cases h : synonym c with
  | none => simp [decm_of_not_synonym cfg h]
  | some v => simp [decm_of_synonym h]

theorem decc_of_decm {cfg : Config} {c : Chr} {v : Nat} (h : decm cfg c = some v) : decc cfg c = some v := by simp [decc, h]

theorem decc_of_decm_none {cfg : Config} {c : Chr} (h : decm cfg c = none) :
    decc cfg c = (cfg.chksym.idxOf? c).map fun j => 32 + j := by
  simp [decc, h, radix]

theorem decc_eq_none_iff {cfg : Config} {c : Chr} : decc cfg c = none ↔ decm cfg c = none ∧ c ∉ cfg.chksym := by
  cases h : decm cfg c with
  | none => simp [decc_of_decm_none h]
  | some v => simp [decc_of_decm h]

theorem alphaSym_eq_getElem {cfg : Config} {v : Nat} (hv : v < cfg.alpha.length) : alphaSym cfg v = cfg.alpha[v] := by
  simp [alphaSym, hv]

theorem comb_of_lt (cfg : Config) {v : Nat} (hv : v < 32) : comb cfg v = alphaSym cfg v := if_pos hv

theorem comb_eq_getElem {cfg : Config} {j : Nat} (hj : j < cfg.chksym.length) : comb cfg (32 + j) = cfg.chksym[j] := by
  simp [comb, radix, hj]

section
variable {cfg : Config} (h : TableLaws cfg)
include h

theorem TableLaws.alphaSym_mem {v : Nat} (hv : v < 32) : alphaSym cfg v ∈ cfg.alpha := by
  rw [alphaSym_eq_getElem (h.length_alpha.symm ▸ hv)]
  exact List.getElem_mem _

theorem TableLaws.alphaSym_zero : alphaSym cfg 0 = chr '0' := by simp [alphaSym, h.zero_eq]

theorem TableLaws.alphaSym_one : alphaSym cfg 1 = chr '1' := by simp [alphaSym, h.one_eq]

/-- A symbol of ALPHA is no synonym, so DECM looks it up at its own place. -/
theorem TableLaws.decm_alphaSym {v : Nat} (hv : v < 32) : decm cfg (alphaSym cfg v) = some v := by
  have hv' : v < cfg.alpha.length := h.length_alpha.symm ▸ hv
  have hsynonym := h.synonym_eq _ (List.mem_append_left _ (h.alphaSym_mem hv))
  rw [decm_of_not_synonym cfg hsynonym, alphaSym_eq_getElem hv', idxOf?_getElem h.nodup_alpha hv']

theorem TableLaws.alphaSym_of_decm {c : Chr} {v : Nat} (hc : c ∈ cfg.alpha) (hv : decm cfg c = some v) : alphaSym cfg v = c := by
  rw [decm_of_not_synonym cfg (h.synonym_eq c (List.mem_append_left _ hc))] at hv
  obtain ⟨hlt, hget, -⟩ := List.idxOf?_eq_some_iff.1 hv
  rw [alphaSym_eq_getElem hlt, hget]

theorem TableLaws.decm_lt {c : Chr} {v : Nat} (hv : decm cfg c = some v) : v < 32 := by
  cases hs : synonym c with
  | none =>
    rw [decm_of_not_synonym cfg hs] at hv
    obtain ⟨hlt, -⟩ := List.idxOf?_eq_some_iff.1 hv
    exact h.length_alpha ▸ hlt
  | some x =>
    obtain rfl := Option.some.inj ((decm_of_synonym hs).symm.trans hv)
    exact (synonym_le_one hs).trans_lt (by decide)

theorem TableLaws.decm_chksym {c : Chr} (hc : c ∈ cfg.chksym) : decm cfg c = none :=
  decm_eq_none_iff.2 ⟨h.synonym_eq c (List.mem_append_right _ hc), h.not_mem_alpha c hc⟩

/-- R61: DECC takes every symbol of COMB back to its value. -/
theorem TableLaws.decc_comb {v : Nat} (hv : v < 37) : decc cfg (comb cfg v) = some v := by
  rcases Nat.lt_or_ge v 32 with hlt | hge
  · rw [comb_of_lt cfg hlt, decc_of_decm (h.decm_alphaSym hlt)]
  · obtain ⟨j, rfl⟩ := Nat.exists_eq_add_of_le hge
    have hj : j < cfg.chksym.length := by rw [h.length_chksym]; omega
    rw [comb_eq_getElem hj, decc_of_decm_none (h.decm_chksym (List.getElem_mem hj)), idxOf?_getElem h.nodup_chksym hj]
    rfl

/-- R62 item 3: what upper-casing changes, the hyphen and the marker are in no decode table. -/
theorem TableLaws.decc_of_unacceptable {c : Chr} (hc : up c ≠ c ∨ c = hyphen ∨ c = invalidMark) (hs : synonym c = none) :
    decc cfg c = none := by
  have hmem : c ∉ cfg.alpha ++ cfg.chksym := by
    intro hm
    rcases hc with hc | hc | hc
    · exact hc (h.up_eq c hm)
    · exact h.ne_hyphen c hm hc
    · exact h.ne_mark c hm hc
  rw [List.mem_append, not_or] at hmem
  exact decc_eq_none_iff.2 ⟨decm_eq_none_iff.2 ⟨hs, hmem.1⟩, hmem.2⟩

/-- R60: the 35 keys of DECM. -/
theorem TableLaws.decm_keys : ∃ keys : List Chr, keys.Nodup ∧ keys.length = 35 ∧ ∀ c, (decm cfg c ≠ none ↔ c ∈ keys) := by
  refine ⟨[chr 'I', chr 'L', chr 'O'] ++ cfg.alpha, ?_, by simp [h.length_alpha], fun c => ?_⟩
  · refine List.nodup_append'.2 ⟨by decide, h.nodup_alpha, fun c hc hm => ?_⟩
    exact synonym_ne_none_iff.2 hc (h.synonym_eq c (List.mem_append_left _ hm))
  · rw [List.mem_append, ← synonym_ne_none_iff, Ne, decm_eq_none_iff]
    tauto

/-- R61: the 40 keys of DECC, those of DECM and the checksum-only symbols. -/
theorem TableLaws.decc_keys : ∃ keys : List Chr, keys.Nodup ∧ keys.length = 40 ∧ ∀ c, (decc cfg c ≠ none ↔ c ∈ keys) := by
  obtain ⟨keys, hnodup, hlength, hkeys⟩ := h.decm_keys
  refine ⟨keys ++ cfg.chksym, ?_, by simp [hlength, h.length_chksym], fun c => ?_⟩
  · refine List.nodup_append'.2 ⟨hnodup, h.nodup_chksym, fun c hc hm => ?_⟩
    exact (hkeys c).2 hc (h.decm_chksym hm)
  · rw [List.mem_append, ← hkeys, Ne, decc_eq_none_iff]
    tauto

end

/-- Settles O44: the keys are the synonyms, ALPHA and CHKSYM, which are disjoint. -/
theorem decodeTableKeys : Obligations.DecodeTableKeys := by
  intro cfg hwf
  have h := tableLaws_of_wellFormed hwf
  exact ⟨fun v hv => h.decm_alphaSym hv, rfl, rfl, rfl, h.decm_keys, fun c v hv => decc_of_decm hv,
    fun j hj => h.decc_comb (by omega), h.decc_keys⟩

/-- The characters of R62 item 3 are no synonyms, and upper-casing changes the letters among them. -/
theorem unacceptable_of_code : ∀ c : Chr, (0x61 ≤ c.toNat ∧ c.toNat ≤ 0x7A) ∨ c = hyphen ∨ c = invalidMark →
    (up c ≠ c ∨ c = hyphen ∨ c = invalidMark) ∧ synonym c = none := by decide +kernel

/-- Settles O45: a symbol is its own canonical form, and the three synonyms have the values of the symbols 1 and 0. -/
theorem decodeTableProperties : Obligations.DecodeTableProperties := by
  refine ⟨fun cfg hwf => ?_, by decide, by decide⟩
  have h := tableLaws_of_wellFormed hwf
  refine ⟨fun v hv => h.decm_alphaSym hv, fun c v hv => ⟨fun hc => h.alphaSym_of_decm hc hv, fun hc => ?one, fun hc => ?zero⟩,
    fun c hc => ?none⟩
  case one =>
    obtain rfl : v = 1 := by rcases hc with rfl | rfl <;> exact (Option.some.inj hv).symm
    exact h.alphaSym_one
  case zero =>
    subst hc
    obtain rfl : v = 0 := (Option.some.inj hv).symm
    exact h.alphaSym_zero
  case none =>
    obtain ⟨hchange, hsynonym⟩ := unacceptable_of_code c hc
    have hdecc := h.decc_of_unacceptable hchange hsynonym
    exact ⟨decm_eq_none_of_decc hdecc, hdecc⟩

end Sys2Proof.Machine
end

section
/-! PROOF. The properties of HYPH (spec/40_datapath_units.md R76), and the hyphenated string without its last character. -/

namespace Sys2Proof.Machine

/-- The characters HYPH adds on the left of a string: one hyphen where R74 places it. -/
theorem hyph_cons_eq (c : Chr) (s : Str) (k : Nat) :
    hyph (c :: s) k = c :: ((if 0 < s.length ∧ s.length % k = 0 then [hyphen] else []) ++ hyph s k) := by
  rw [hyph_cons]
  split <;> rfl

@[simp] theorem clean_hyph (s : Str) (k : Nat) : clean (hyph s k) = clean s := by
  induction s with
  | nil => rfl
  | cons c s ih =>
    rw [hyph_cons_eq]
    split <;> simp [ih]

/-- The number of positive multiples of k grows with n where n itself is one. -/
theorem sub_one_div_add_ite {n k : Nat} :
    (n - 1) / k + (if 0 < n ∧ n % k = 0 then 1 else 0) = n / k := by
  cases n with
  | zero => simp
  | succ n => simp [Nat.succ_div, Nat.dvd_iff_mod_eq_zero]

theorem length_hyph (s : Str) (k : Nat) : (hyph s k).length = s.length + (s.length - 1) / k := by
  induction s with
  | nil => simp
  | cons c s ih =>
    have hcount := sub_one_div_add_ite (n := s.length) (k := k)
    rw [hyph_cons_eq, List.length_cons, List.length_append, ih, apply_ite List.length]
    simp only [List.length_nil, List.length_cons, Nat.add_sub_cancel, Nat.zero_add]
    omega

/-- HYPH adds hyphens only: the rest of the growth is none. -/
theorem count_hyph (s : Str) (k : Nat) : (hyph s k).count hyphen = s.count hyphen + (s.length - 1) / k := by
  have hgrown := length_clean_add_count (hyph s k)
  have hbefore := length_clean_add_count s
  rw [clean_hyph, length_hyph] at hgrown
  omega

theorem hyph_of_length_le {s : Str} {k : Nat} (h : s.length ≤ k) : hyph s k = s := by
  induction s with
  | nil => rfl
  | cons c s ih =>
    have hlt : s.length < k := h
    rw [hyph_cons, if_neg (fun hpos => by rw [Nat.mod_eq_of_lt hlt] at hpos; omega), ih hlt.le]

/-- Settles O55: the length by induction on the string, and the count of hyphens from it, since CLEAN sees no difference. -/
theorem hyphProperties : Obligations.HyphProperties :=
  fun s k _ => ⟨count_hyph s k, length_hyph s k, hyph_nil k, hyph_of_length_le, clean_hyph s k⟩

/-- HYPH leaves the last character last, and on its left nothing but hyphens is new. -/
theorem hyph_append_singleton (s : Str) (c : Chr) (k : Nat) :
    ∃ y, hyph (s ++ [c]) k = y ++ [c] ∧ clean y = clean s ∧ ∀ d ∈ y, d ∈ s ∨ d = hyphen := by
  induction s with
  | nil => exact ⟨[], rfl, rfl, by simp⟩
  | cons d s ih =>
    obtain ⟨y, hy, hclean, hmem⟩ := ih
    rw [List.cons_append, hyph_cons_eq, hy]
    split
    · exact ⟨d :: hyphen :: y, rfl, by simp [hclean], by simpa [or_assoc] using fun e he => .inr (hmem e he)⟩
    · exact ⟨d :: y, rfl, by simp [hclean], by simpa [or_assoc] using fun e he => .inr (hmem e he)⟩

theorem mem_of_mem_hyph {s : Str} {k : Nat} {c : Chr} (h : c ∈ hyph s k) : c ∈ s ∨ c = hyphen := by
  rcases List.eq_nil_or_concat' s with rfl | ⟨s, d, rfl⟩
  · exact .inl h
  obtain ⟨y, hy, -, hmem⟩ := hyph_append_singleton s d k
  rw [hy, List.mem_append] at h
  rcases h with h | h
  · exact (hmem c h).imp_left (List.mem_append_left _)
  · exact .inl (List.mem_append_right _ h)

end Sys2Proof.Machine
end

section
/-! PROOF. What ENC writes, and that decoding reads it back as the number, for every table content that meets the constraints
and every W the number fits (spec/41_encode.md R77 to R79, spec/42_decode.md R85). -/

namespace Sys2Proof.Machine

/-- The checksum suffix of the number n: one symbol with C = 1, none with C = 0 (R78). -/
def checksumSuffix (cfg : Config) (c : Bool) (n : Nat) : Str := if c = true then [comb cfg (mod37 n)] else []

@[simp] theorem checksumSuffix_false (cfg : Config) (n : Nat) : checksumSuffix cfg false n = [] := rfl

@[simp] theorem checksumSuffix_true (cfg : Config) (n : Nat) : checksumSuffix cfg true n = [comb cfg (mod37 n)] := rfl

@[simp] theorem length_checksumSuffix (cfg : Config) (c : Bool) (n : Nat) : (checksumSuffix cfg c n).length = c.toNat := by
  cases c <;> rfl

@[simp] theorem encString_split (cfg : Config) (c : Bool) (len : Option Nat) (k n : Nat) :
    encString cfg c len (some k) n = hyph (encString cfg c len none n) k := rfl

theorem encString_unpadded (cfg : Config) (c : Bool) (n : Nat) :
    encString cfg c none none n = (part5 n).map (alphaSym cfg) ++ checksumSuffix cfg c n := by
  cases c <;> simp [encString]

/-- Padding puts zero groups in front of the groups of n. -/
theorem encString_unsplit (cfg : Config) (c : Bool) (len : Option Nat) (n : Nat) : ∃ z,
    encString cfg c len none n = (List.replicate z 0 ++ part5 n).map (alphaSym cfg) ++ checksumSuffix cfg c n := by
  cases len with
  | none => exact ⟨0, encString_unpadded cfg c n⟩
  | some m =>
    refine ⟨m - (encString cfg c none none n).length, ?_⟩
    rw [List.map_append, List.map_replicate, List.append_assoc, ← encString_unpadded]
    rfl

/-- An encoded string is a body with the checksum suffix last; CLEAN leaves of the body the symbols of the groups of n behind
zero groups, and only S = 1 puts hyphens between them. -/
theorem encString_eq_append (cfg : Config) (c : Bool) (len spl : Option Nat) (n : Nat) : ∃ body z,
    encString cfg c len spl n = body ++ checksumSuffix cfg c n ∧
    clean body = clean ((List.replicate z 0 ++ part5 n).map (alphaSym cfg)) ∧
    ∀ d ∈ body, d ∈ (List.replicate z 0 ++ part5 n).map (alphaSym cfg) ∨ (d = hyphen ∧ spl.isSome) := by
  obtain ⟨z, hz⟩ := encString_unsplit cfg c len n
  cases spl with
  | none => exact ⟨_, z, hz, rfl, fun d hd => .inl hd⟩
  | some k =>
    rw [encString_split, hz]
    cases c with
    | false =>
      refine ⟨_, z, (List.append_nil _).symm, ?_, fun d hd => ?_⟩
      · simp
      · simpa using mem_of_mem_hyph hd
    | true =>
      obtain ⟨y, hy, hclean, hmem⟩ :=
        hyph_append_singleton ((List.replicate z 0 ++ part5 n).map (alphaSym cfg)) (comb cfg (mod37 n)) k
      exact ⟨y, z, hy, hclean, fun d hd => by simpa using hmem d hd⟩

theorem asm5_replicate_zero_append (z : Nat) (v : List Nat) : asm5 (List.replicate z 0 ++ v) = asm5 v := by
  induction z with
  | zero => rfl
  | succ z ih => rw [List.replicate_succ, List.cons_append, asm5_zero_cons, ih]

theorem lt_of_mem_padded_part5 {z n x : Nat} (h : x ∈ List.replicate z 0 ++ part5 n) : x < 32 := by
  rcases List.mem_append.1 h with h | h
  · rw [List.eq_of_mem_replicate h]
    decide
  · exact lt_of_mem_part5 h

theorem fitsNum_iff {cfg : Config} {n : Nat} : fitsNum cfg n = true ↔ ∀ w, cfg.width = some w → n < 2 ^ w := by
  unfold fitsNum
  cases cfg.width <;> simp

theorem fitsNum_mono {cfg : Config} {m n : Nat} (hn : fitsNum cfg n = true) (hle : m ≤ n) : fitsNum cfg m = true :=
  fitsNum_iff.2 fun w hw => hle.trans_lt (fitsNum_iff.1 hn w hw)

/-- Accumulation never decreases the number. -/
theorem le_foldl_radix (v : List Nat) (acc : Nat) : acc ≤ v.foldl (fun acc x => acc * radix + x) acc := by
  induction v generalizing acc with
  | nil => exact le_rfl
  | cons x v ih => exact le_trans (by rw [radix]; omega) (ih (acc * radix + x))

/-- The decoding loop for a finite W: where the number fits, so does every number on the way to it. -/
theorem decLoop_of_values_of_fits {cfg : Config} {t : Str} {v : List Nat} {acc : Nat} (hv : t.map (decm cfg) = v.map some)
    (hfit : fitsNum cfg (v.foldl (fun acc x => acc * radix + x) acc) = true) :
    decLoop cfg acc t = .ok (some (v.foldl (fun acc x => acc * radix + x) acc)) := by
  induction t generalizing v acc with
  | nil =>
    obtain rfl := List.map_eq_nil_iff.1 hv.symm
    rfl
  | cons c t ih =>
    cases v with
    | nil => cases hv
    | cons x v =>
      obtain ⟨hhead, htail⟩ := List.cons_eq_cons.1 hv
      rw [List.foldl_cons] at hfit ⊢
      simp only [decLoop, hhead, fitsNum_mono hfit (le_foldl_radix v _), if_true]
      exact ih htail hfit

theorem decBody_of_values_of_fits {cfg : Config} {body : Str} {v : List Nat} (hv : (clean body).map (decm cfg) = v.map some)
    (hfit : fitsNum cfg (asm5 v) = true) : decBody cfg body = .ok (some (asm5 v)) :=
  decLoop_of_values_of_fits hv hfit

/-- R82 with a finite W: the value of the checksum character is checked before the body. -/
theorem decString_checksum_append_eq (cfg : Config) (body : Str) (k : Chr) : decString cfg true (body ++ [k]) =
    if (decc cfg k).all (fitsNum cfg) = true then (decBody cfg body).map fun r => r.bind (checkSum cfg k)
    else .error .numberTooWide := by
  simp [decString]

theorem mod37_lt (n : Nat) : mod37 n < 37 := Nat.mod_lt n (by decide)

section
variable {cfg : Config} (h : TableLaws cfg)
include h

theorem TableLaws.clean_of_symbols {t : Str} (ht : ∀ d ∈ t, d ∈ cfg.alpha ++ cfg.chksym) : clean t = t :=
  clean_eq_self fun d hd => ⟨h.ne_hyphen d (ht d hd), h.up_eq d (ht d hd)⟩

theorem TableLaws.mem_alpha_of_mem_symbols {v : List Nat} (hv : ∀ x ∈ v, x < 32) {d : Chr} (hd : d ∈ v.map (alphaSym cfg)) :
    d ∈ cfg.alpha := by
  obtain ⟨x, hx, rfl⟩ := List.mem_map.1 hd
  exact h.alphaSym_mem (hv x hx)

/-- The symbols of values below 32 are looked up to those values. -/
theorem TableLaws.map_decm_clean_symbols {v : List Nat} (hv : ∀ x ∈ v, x < 32) :
    (clean (v.map (alphaSym cfg))).map (decm cfg) = v.map some := by
  rw [h.clean_of_symbols fun d hd => List.mem_append_left _ (h.mem_alpha_of_mem_symbols hv hd), List.map_map]
  exact List.map_congr_left fun x hx => h.decm_alphaSym (hv x hx)

theorem TableLaws.comb_mem {v : Nat} (hv : v < 37) : comb cfg v ∈ cfg.alpha ++ cfg.chksym := by
  rcases Nat.lt_or_ge v 32 with hlt | hge
  · exact List.mem_append_left _ (comb_of_lt cfg hlt ▸ h.alphaSym_mem hlt)
  · obtain ⟨j, rfl⟩ := Nat.exists_eq_add_of_le hge
    have hj : j < cfg.chksym.length := by rw [h.length_chksym]; omega
    exact List.mem_append_right _ (comb_eq_getElem hj ▸ List.getElem_mem hj)

/-- R57: the checksum-only symbols are those of the values from 32 up. -/
theorem TableLaws.comb_mem_chksym_iff {v : Nat} (hv : v < 37) : comb cfg v ∈ cfg.chksym ↔ 32 ≤ v := by
  rcases Nat.lt_or_ge v 32 with hlt | hge
  · have hmem : comb cfg v ∈ cfg.alpha := comb_of_lt cfg hlt ▸ h.alphaSym_mem hlt
    exact ⟨fun hm => absurd hmem (h.not_mem_alpha _ hm), fun hge => absurd hge hlt.not_ge⟩
  · obtain ⟨j, rfl⟩ := Nat.exists_eq_add_of_le hge
    have hj : j < cfg.chksym.length := by rw [h.length_chksym]; omega
    exact iff_of_true (comb_eq_getElem hj ▸ List.getElem_mem hj) hge

/-- R85 items 1 and 2: zero groups and hyphens do not change the number the body decodes to, and the checksum character has the
value its remainder gives. -/
theorem TableLaws.decString_encString (c : Bool) (len spl : Option Nat) {n : Nat} (hfit : fitsNum cfg n = true) :
    decString cfg c (encString cfg c len spl n) = .ok (some n) := by
  obtain ⟨body, z, hx, hclean, -⟩ := encString_eq_append cfg c len spl n
  have hnumber : asm5 (List.replicate z 0 ++ part5 n) = n := by rw [asm5_replicate_zero_append, asm5_part5]
  have hbody : decBody cfg body = .ok (some n) := by
    have hvalues : (clean body).map (decm cfg) = (List.replicate z 0 ++ part5 n).map some := by
      rw [hclean, h.map_decm_clean_symbols fun _ => lt_of_mem_padded_part5]
    rw [decBody_of_values_of_fits hvalues (hnumber.symm ▸ hfit), hnumber]
  rw [hx]
  cases c with
  | false => rw [checksumSuffix_false, List.append_nil, decString_plain, hbody]
  | true =>
    have hdecc := h.decc_comb (mod37_lt n)
    have hvalue : (decc cfg (comb cfg (mod37 n))).all (fitsNum cfg) = true := by
      rw [hdecc]
      exact fitsNum_mono hfit (Nat.mod_le n 37)
    rw [checksumSuffix_true, decString_checksum_append_eq, if_pos hvalue, hbody]
    exact congrArg Except.ok (checkSum_of_match hdecc)

end

/-- Settles O22: `TableLaws.decString_encString`, for any split. -/
theorem roundTripForEveryAlphabet : Obligations.RoundTripForEveryAlphabet :=
  fun _ c len spl _ hwf hfit _ => (tableLaws_of_wellFormed hwf).decString_encString c len spl hfit

/-- ENC on written operands, its options in range, ends with the encoded string. -/
theorem ends_enc (c : Bool) {l sp : Bool} {s : State} {n m k : Nat} (hnum : s.num = some n) (hlen : l = true → s.len = some m)
    (hspl : sp = true → s.spl = some k ∧ 0 < k) :
    Ends (.enc c l sp) s (.str (encString b32c c (if l then some m else none) (if sp then some k else none) n)) := by
  refine ends_of_outcomeOf (encResult_of_written c hnum hlen (fun hsp => (hspl hsp).1) ?_)
  rintro ⟨hsp, rfl⟩
  exact absurd (hspl hsp).2 (by decide)

/-- Settles O21: what ENC writes decodes to the number on this hardware, and DEC and DECX end as the decoding says. -/
theorem encDecRoundTrip : Obligations.EncDecRoundTrip :=
  fun c _ _ _ n _ _ hnum hlen hspl => ⟨_, ends_enc c hnum hlen hspl,
    fun _ hu => ends_num_of_decString hu (tableLaws_b32c.decString_encString c _ _ (fitsNum_b32c n))⟩

end Sys2Proof.Machine
end

section
/-! PROOF. The laws of ENC's result: its length, its symbols, its first symbol, and what DEC without the checksum option makes
of it (spec/41_encode.md R79, R80, spec/42_decode.md R85 item 7). -/

namespace Sys2Proof.Machine

/-- Settles O10. -/
theorem encZeroSplitRaisesInvalidOption : Obligations.EncZeroSplitRaisesInvalidOption :=
  fun c l _ hspl => ends_of_outcomeOf (encResult_of_split_zero c l hspl)

theorem length_encString_unpadded (cfg : Config) (c : Bool) (n : Nat) :
    (encString cfg c none none n).length = (part5 n).length + c.toNat := by
  simp [encString_unpadded]

theorem length_encString_unsplit (cfg : Config) (c l : Bool) (m n : Nat) :
    (encString cfg c (if l then some m else none) none n).length =
      if l = true then max ((part5 n).length + c.toNat) m else (part5 n).length + c.toNat := by
  cases l with
  | false => exact length_encString_unpadded cfg c n
  | true =>
    rw [← length_encString_unpadded cfg]
    exact length_pad cfg _ m

/-- R79 item 4: the hyphens are counted from the padded length. -/
theorem length_encString (cfg : Config) (c l sp : Bool) (m k n : Nat) :
    (encString cfg c (if l then some m else none) (if sp then some k else none) n).length =
      let b := (part5 n).length + c.toNat
      let p := if l = true then max b m else b
      if sp = true then p + (p - 1) / k else p := by
  cases sp with
  | false => exact length_encString_unsplit cfg c l m n
  | true => simp only [if_true, encString_split, length_hyph, length_encString_unsplit]

/-- PART5 gives at least one group, and no stage of ENC shortens its string. -/
theorem length_encString_pos (cfg : Config) (c : Bool) (len spl : Option Nat) (n : Nat) :
    1 ≤ (encString cfg c len spl n).length := by
  have hgroups : 0 < (part5 n).length := length_part5 n ▸ groupCount_pos n
  obtain ⟨z, hz⟩ := encString_unsplit cfg c len n
  have hunsplit : 1 ≤ (encString cfg c len none n).length := by
    simp only [hz, List.length_append, List.length_map]
    omega
  cases spl with
  | none => exact hunsplit
  | some k =>
    rw [encString_split, length_hyph]
    exact hunsplit.trans (Nat.le_add_right _ _)

/-- Settles O11: the length is that of the encoded string ENC ends with. -/
theorem encResultLength : Obligations.EncResultLength :=
  fun c l sp _ n m k hnum hlen hspl =>
    ⟨_, ends_enc c hnum hlen hspl, length_encString b32c c l sp m k n, length_encString_pos b32c c _ _ n⟩

/-- The marker and the synonyms are no symbols, and neither is the hyphen one of them. -/
theorem TableLaws.ne_reserved {cfg : Config} (h : TableLaws cfg) {d : Chr} (hd : d ∈ cfg.alpha ++ cfg.chksym ∨ d = hyphen) :
    d ≠ chr '?' ∧ d ≠ chr 'I' ∧ d ≠ chr 'L' ∧ d ≠ chr 'O' := by
  rcases hd with hd | rfl
  · have hsynonym : d ∉ [chr 'I', chr 'L', chr 'O'] :=
      fun hm => synonym_ne_none_iff.2 hm (h.synonym_eq d hd)
    exact ⟨h.ne_mark d hd, by simpa using hsynonym⟩
  · decide

/-- R79 item 5: the body of an encoded string holds symbols of ALPHA, and hyphens only with S = 1. -/
theorem TableLaws.encString_symbols {cfg : Config} (h : TableLaws cfg) (c : Bool) (len spl : Option Nat) (n : Nat) : ∃ body,
    encString cfg c len spl n = body ++ checksumSuffix cfg c n ∧
    ∀ d ∈ body, d ∈ cfg.alpha ∨ (d = hyphen ∧ spl.isSome) := by
  obtain ⟨body, z, hx, -, hmem⟩ := encString_eq_append cfg c len spl n
  exact ⟨body, hx, fun d hd => (hmem d hd).imp_left (h.mem_alpha_of_mem_symbols fun _ => lt_of_mem_padded_part5)⟩

theorem TableLaws.checksumSuffix_mem {cfg : Config} (h : TableLaws cfg) {c : Bool} {n : Nat} {d : Chr}
    (hd : d ∈ checksumSuffix cfg c n) : d ∈ cfg.alpha ++ cfg.chksym := by
  cases c with
  | false => cases hd
  | true => exact List.mem_singleton.1 hd ▸ h.comb_mem (mod37_lt n)

/-- Settles O12: `TableLaws.encString_symbols` for the body, `TableLaws.comb_mem` for the checksum symbol. -/
theorem encResultSymbols : Obligations.EncResultSymbols := by
  intro c l sp s n m k hnum hlen hspl
  have h := tableLaws_b32c
  obtain ⟨body, hx, hmem⟩ := h.encString_symbols c (if l then some m else none) (if sp then some k else none) n
  refine ⟨body, checksumSuffix b32c c n, hx ▸ ends_enc c hnum hlen hspl, fun d hd => ?_, rfl,
    h.comb_mem_chksym_iff (mod37_lt n), fun d hd => h.ne_reserved ?_⟩
  · simpa using hmem d hd
  · rcases List.mem_append.1 hd with hd | hd
    · exact (hmem d hd).imp (List.mem_append_left _) And.left
    · exact .inl (h.checksumSuffix_mem hd)

/-- Settles O13: a number below 32 is its one group, and the remainder of 0 is 0. -/
theorem encSmallNumbers : Obligations.EncSmallNumbers := by
  intro s n hnum hn
  have hends (c : Bool) := ends_enc c (l := false) (sp := false) (m := 0) (k := 0) hnum (by simp) (by simp)
  refine ⟨?_, ?_⟩
  · simpa [encString_unpadded, part5_of_lt hn] using hends false
  · rintro rfl
    exact hends true

/-- The first symbol of a positive number stands for a group that is not 0, and HYPH leaves it first. -/
theorem TableLaws.encString_head {cfg : Config} (h : TableLaws cfg) (c : Bool) (spl : Option Nat) {n : Nat} (hn : 0 < n) :
    ∃ d rest, encString cfg c none spl n = d :: rest ∧ d ∈ cfg.alpha ∧ d ≠ chr '0' := by
  obtain ⟨g, gs, hgs⟩ := List.exists_cons_of_length_pos (length_part5 n ▸ groupCount_pos n)
  have hg : g < 32 := lt_of_mem_part5 (hgs ▸ List.mem_cons_self)
  have hne : alphaSym cfg g ≠ chr '0' := by
    intro heq
    have hvalue := h.decm_alphaSym hg
    rw [heq, ← h.alphaSym_zero, h.decm_alphaSym (by decide)] at hvalue
    exact head?_part5_ne_zero n hn (by rw [hgs, List.head?_cons, ← hvalue])
  have hunsplit : encString cfg c none none n = alphaSym cfg g :: (gs.map (alphaSym cfg) ++ checksumSuffix cfg c n) := by
    rw [encString_unpadded, hgs]
    rfl
  cases spl with
  | none => exact ⟨_, _, hunsplit, h.alphaSym_mem hg, hne⟩
  | some k => exact ⟨_, _, by rw [encString_split, hunsplit, hyph_cons_eq], h.alphaSym_mem hg, hne⟩

/-- Settles O14: `TableLaws.encString_head`. -/
theorem encNoLeadingZero : Obligations.EncNoLeadingZero := by
  intro c sp s n k hnum hspl hn
  obtain ⟨d, rest, hx, hmem, hne⟩ := tableLaws_b32c.encString_head c (if sp then some k else none) hn
  have hends := ends_enc c (l := false) (m := 0) hnum (by simp) hspl
  exact ⟨d, rest, hx ▸ hends, hmem, hne⟩

/-- R85 item 7: the checksum symbol is one more symbol of the body, or a miss of DECM where it is checksum-only. -/
theorem decBody_encString_checksum (len spl : Option Nat) (n : Nat) :
    decBody b32c (encString b32c true len spl n) = .ok (if n % 37 < 32 then some (32 * n + n % 37) else none) := by
  have h := tableLaws_b32c
  obtain ⟨body, z, hx, hclean, -⟩ := encString_eq_append b32c true len spl n
  have hlast : clean [comb b32c (mod37 n)] = [comb b32c (mod37 n)] :=
    h.clean_of_symbols fun d hd => List.mem_singleton.1 hd ▸ h.comb_mem (mod37_lt n)
  rw [checksumSuffix_true] at hx
  split
  next hlt =>
    have hsymbol : decm b32c (comb b32c (mod37 n)) = some (mod37 n) := by
      rw [comb_of_lt b32c (v := mod37 n) hlt, h.decm_alphaSym (v := mod37 n) hlt]
    have hvalues : (clean (body ++ [comb b32c (mod37 n)])).map (decm b32c) =
        (List.replicate z 0 ++ part5 n ++ [mod37 n]).map some := by
      rw [clean_append, hlast, List.map_append, hclean, h.map_decm_clean_symbols fun _ => lt_of_mem_padded_part5,
        List.map_singleton, hsymbol, List.map_append (l₂ := [mod37 n]), List.map_singleton]
    rw [hx, decBody_of_values hvalues, asm5_append_singleton, asm5_replicate_zero_append, asm5_part5]
    rfl
  next hge =>
    have hmiss : decm b32c (comb b32c (mod37 n)) = none :=
      h.decm_chksym ((h.comb_mem_chksym_iff (mod37_lt n)).2 (not_lt.1 hge))
    rw [hx, decBody_of_miss ⟨_, by rw [clean_append, hlast]; exact List.mem_append_right _ List.mem_cons_self, hmiss⟩]

/-- Settles O23: `decBody_encString_checksum`, by DEC's two outcomes. -/
theorem checksumStringDecodedWithoutChecksum : Obligations.ChecksumStringDecodedWithoutChecksum := by
  intro l sp s n m k hnum hlen hspl
  refine ⟨_, ends_enc true hnum hlen hspl, fun u hu => ?_⟩
  have hends := ends_dec (c := false) hu (decBody_encString_checksum _ _ n)
  split at hends
  next hlt => simpa [numOr, hlt] using hends
  next hge => simpa [numOr, hge] using hends

end Sys2Proof.Machine
end

section
/-! PROOF. DECX on accepted input, and what DEC and DECX do not see of a body: hyphens, letter case, synonyms
(spec/42_decode.md R84, R85). -/

namespace Sys2Proof.Machine

/-- Settles O18: the decoding of an accepted input gives the number, and DECX ends as the decoding says. -/
theorem decxCompletesOnAcceptedInput : Obligations.DecxCompletesOnAcceptedInput := by
  intro c s body k v hin hv hmatch
  have hbody := decBody_of_values hv
  cases c with
  | false => exact ends_decx (c := false) hin hbody
  | true =>
    have hvalue : decc b32c k = some (mod37 (asm5 v)) := hmatch rfl
    have hnumber := decString_checksum_of_number k hbody
    rw [checkSum_of_match hvalue] at hnumber
    exact ends_decx (c := true) hin hnumber

/-- The decoding sees of the body only what DECM says of its cleaned characters. -/
theorem decString_congr (c : Bool) (k : Chr) {a b : Str} (h : (clean a).map (decm b32c) = (clean b).map (decm b32c)) :
    decString b32c c (a ++ if c = true then [k] else []) = decString b32c c (b ++ if c = true then [k] else []) := by
  have hbody : decBody b32c a = decBody b32c b := decLoop_congr 0 h
  cases c with
  | false => simpa using hbody
  | true => simp [hbody]

/-- DEC, and DECX as well, ends alike on inputs that decode alike. -/
theorem ends_alike {c : Bool} {i : Instr} {s u : State} {x y : Str} (hi : i = .dec c ∨ i = .decx c) (hs : HoldsIn s x)
    (hu : HoldsIn u y) (h : decString b32c c x = decString b32c c y) : ∃ r, Ends i s r ∧ Ends i u r := by
  obtain ⟨r, hr⟩ := decString_eq_ok c y
  rcases hi with rfl | rfl
  · exact ⟨_, ends_dec hs (h.trans hr), ends_dec hu hr⟩
  · exact ⟨_, ends_decx hs (h.trans hr), ends_decx hu hr⟩

theorem clean_map_up (a : Str) : clean (a.map up) = clean a := by
  induction a with
  | nil => rfl
  | cons c a ih => by_cases h : c = hyphen <;> simp [h, ih]

/-- One character of a body against another that DECM looks up alike after CLEAN. -/
theorem map_decm_clean_replace (a b : Str) {d e : Chr} (hd : d ≠ hyphen) (he : e ≠ hyphen)
    (h : decm b32c (up d) = decm b32c (up e)) :
    (clean (a ++ d :: b)).map (decm b32c) = (clean (a ++ e :: b)).map (decm b32c) := by
  simp [hd, he, h]

/-- The letters, lower case against upper case (R65). -/
theorem up_letter : ∀ d < 26, BitVec.ofNat 8 (0x61 + d) ≠ hyphen ∧ BitVec.ofNat 8 (0x41 + d) ≠ hyphen ∧
    up (BitVec.ofNat 8 (0x61 + d)) = up (BitVec.ofNat 8 (0x41 + d)) := by decide

/-- The synonyms of 1 and 0 in both cases (R60). -/
theorem decm_synonym : ∀ d ∈ [('1', 'I'), ('1', 'i'), ('1', 'L'), ('1', 'l'), ('0', 'O'), ('0', 'o')],
    chr d.1 ≠ hyphen ∧ chr d.2 ≠ hyphen ∧ decm b32c (up (chr d.1)) = decm b32c (up (chr d.2)) := by decide

/-- Settles O20: each change of the body leaves what DECM says of its cleaned characters as it was. -/
theorem decIgnoresHyphensCaseSynonyms : Obligations.DecIgnoresHyphensCaseSynonyms := by
  refine fun c k i s u hi => ⟨fun a b hs hu => ?hyphens, fun a hs hu => ?upper, fun a b d hd hs hu => ?letter,
    fun a b d hd hs hu => ?synonyms⟩
  case hyphens => exact ends_alike hi hs hu (decString_congr c k (by simp))
  case upper => exact ends_alike hi hs hu (decString_congr c k (by rw [clean_map_up]))
  case letter =>
    obtain ⟨hlower, hupper, hup⟩ := up_letter d hd
    exact ends_alike hi hs hu (decString_congr c k (map_decm_clean_replace a b hlower hupper (congrArg _ hup)))
  case synonyms =>
    obtain ⟨hdigit, hletter, hvalue⟩ := decm_synonym d hd
    exact ends_alike hi hs hu (decString_congr c k (map_decm_clean_replace a b hdigit hletter hvalue))

end Sys2Proof.Machine
end

section
/-! PROOF. Command writes: rejected words and failed commands; what the reads of the operands answer, and ENC from them
(spec/30_encoding.md R50 to R53, spec/10_state.md R29, spec/41_encode.md R77, R80). -/

namespace Sys2Proof.Machine

/-! ### The step of a command write -/

theorem step_of_pending {s : State} {a : HostAction} {q : List HostAction} (hq : s.pending = a :: q) :
    step s = perform a (s.setPending q) := by
  simp [step, nextAction, hq]

/-- Settles O8. -/
theorem idleStepChangesNothing : Obligations.IdleStepChangesNothing := fun s h => by simp [step, nextAction, h]

theorem step_wrCmd_of_ok {s : State} {w : BitVec 8} {q : List HostAction} {i : Instr} (hq : s.pending = .wrCmd w :: q)
    (h : decodeCmd w = .ok i) : step s = exec i ((s.setPending q).setCmd w) := by
  simp [step_of_pending hq, perform, hostCommand, h]

/-- Settles O7. -/
theorem stepRunsDecodedCommand : Obligations.StepRunsDecodedCommand := fun _ _ _ _ hq h => step_wrCmd_of_ok hq h

/-- R50 to R53: the write of a rejected word ends by the fault that belongs to the rejection. -/
theorem step_wrCmd_of_error {s : State} {w : BitVec 8} {q : List HostAction} {e : DecodeError} (hq : s.pending = .wrCmd w :: q)
    (h : decodeCmd w = .error e) : ∃ t, step s = .next t ∧ Shows t (.fault (rejectFault e)) ∧
      SameOperands { s with pending := q, cmd := some w } t :=
  ⟨((s.setPending q).setCmd w).finish (.fault (rejectFault e)),
    by simp [step_of_pending hq, perform, hostCommand, h, State.finish], shows_finish _ _, sameOperands_finish _ _⟩

/-- Settles O4: the first check of the decoder fails. -/
theorem undefinedOpRaisesIllegalCmd : Obligations.UndefinedOpRaisesIllegalCmd :=
  fun _ _ _ hq hop => step_wrCmd_of_error hq (decodeFields_of_op hop)

/-- Settles O5: the second check of the decoder fails. -/
theorem reservedBitsRaiseInvalidOption : Obligations.ReservedBitsRaiseInvalidOption :=
  fun _ _ _ hq hop hrsv => step_wrCmd_of_error hq (decodeFields_of_rsv hop hrsv)

/-- Settles O6: the third check of the decoder fails. -/
theorem unrecognisedOptionRaisesInvalidOption : Obligations.UnrecognisedOptionRaisesInvalidOption := by
  intro s w q hq hlow hhigh hoption
  refine step_wrCmd_of_error hq (decodeFields_of_option (Nat.lt_succ_of_le hhigh) ?_ hoption)
  intro henc
  rw [CmdFields.ofWord_op] at henc
  rw [henc] at hlow
  exact absurd hlow (by decide)

/-- Settles O31: of the outcomes a command can end with, those whose STATUS is not OK write no result register. -/
theorem failedCommandChangesOnlyStatus : Obligations.FailedCommandChangesOnlyStatus := by
  intro s t w q hq h hstatus
  obtain ⟨r, rfl⟩ := step_wrCmd_next hq h
  cases r with
  | noResult | fault k => rfl
  | str x | num n | flag b => exact absurd rfl hstatus

/-! ### The reads of the operands -/

theorem readOperand_eq_error {r : Operand} {v : Option Nat} {e : Refusal} (h : readOperand r v = .error e) :
    e = .operandUnwritten r := by
  cases v with
  | none => exact (Except.error.inj h).symm
  | some n => cases h

theorem readNumber_eq_ok_iff {cfg : Config} {r : Operand} {v : Option Nat} {n : Nat} :
    readNumber cfg r v = .ok n ↔ v = some n ∧ fitsNum cfg n = true := by
  unfold readNumber
  cases v with
  | none => simp [readOperand]
  | some m =>
    by_cases hfit : fitsNum cfg m = true
    · simp only [readOperand, hfit, if_true, Except.ok.injEq, Option.some.injEq]
      exact ⟨fun heq => ⟨heq, heq ▸ hfit⟩, And.left⟩
    · simp only [readOperand, hfit, Bool.false_eq_true, if_false, reduceCtorEq, Option.some.injEq, false_iff, not_and]
      exact fun heq => heq ▸ hfit

/-- R49: an option that is present is its register's value, an absent one reads no register. -/
theorem readOption_eq_ok_iff {cfg : Config} {present : Bool} {r : Operand} {v o : Option Nat} :
    readOption cfg present r v = .ok o ↔
      o = (if present then v else none) ∧ (present = true → ∃ k, v = some k ∧ fitsNum cfg k = true) := by
  cases present with
  | false => simp [readOption, eq_comm (a := o)]
  | true =>
    simp only [readOption, if_true, forall_const, ← readNumber_eq_ok_iff (r := r)]
    cases h : readNumber cfg r v with
    | error e => simp [Except.map]
    | ok n =>
      have hv := (readNumber_eq_ok_iff.1 h).1
      simp [Except.map, hv, eq_comm (a := o)]

theorem readOption_b32c_eq_error {present : Bool} {r : Operand} {v : Option Nat} {e : Refusal}
    (h : readOption b32c present r v = .error e) : e = .operandUnwritten r := by
  cases present with
  | false => cases h
  | true =>
    cases v with
    | none => exact (Except.error.inj h).symm
    | some n => cases h

theorem readOption_congr (cfg : Config) {present : Bool} (r : Operand) {v w : Option Nat} (h : present = true → v = w) :
    readOption cfg present r v = readOption cfg present r w := by
  cases present with
  | false => rfl
  | true => rw [h rfl]

theorem Memory.readString_congr {m m' : Memory} {i n : Nat} (h : ∀ j, j < n → m.read (i + j) = m'.read (i + j)) :
    m.readString i n = m'.readString i n := by
  refine Option.ext fun t => ?_
  rw [Memory.readString_eq_some, Memory.readString_eq_some]
  exact and_congr_right fun _ => forall₂_congr fun j hj => by rw [h j hj]

theorem readIn_congr (cfg : Config) {s u : State} (hilen : u.ilen = s.ilen)
    (hibuf : ∀ n, s.ilen = some n → ∀ j, j < n → u.ibuf.read j = s.ibuf.read j) : readIn cfg u = readIn cfg s := by
  unfold readIn
  rw [hilen]
  cases h : readNumber cfg .ilen s.ilen with
  | error e => rfl
  | ok n =>
    have hcells : u.ibuf.readString 0 n = s.ibuf.readString 0 n :=
      Memory.readString_congr fun j hj => by simpa using hibuf n (readNumber_eq_ok_iff.1 h).1 j hj
    simp only [hcells]

/-! ### The commands from their reads -/

/-- Everything ENC can answer: the fault of SPL = 0, or the encoded string, where all it reads is written and all fits (R77,
R80). -/
theorem encResult_eq_ok_iff {cfg : Config} {c l sp : Bool} {s : State} {r : Result} :
    encResult cfg c l sp s = .ok r ↔
      (readSpl cfg sp s = .ok (some 0) ∧ r = .fault .invalidOption) ∨
      ∃ spl n len, readSpl cfg sp s = .ok spl ∧ spl ≠ some 0 ∧ readNum cfg s = .ok n ∧ readLen cfg l s = .ok len ∧
        fitsNum cfg (encString cfg c len spl n).length = true ∧ fitsLen cfg (encString cfg c len spl n).length = true ∧
        r = .str (encString cfg c len spl n) := by
  unfold encResult
  cases hspl : readSpl cfg sp s with
  | error e => simp
  | ok spl =>
    by_cases hzero : spl = some 0
    · simp [hzero, eq_comm (a := r)]
    cases hnum : readNum cfg s with
    | error e => simp [hzero]
    | ok n =>
      cases hlen : readLen cfg l s with
      | error e => simp [hzero]
      | ok len =>
        simp only [hzero, if_false]
        cases hW : fitsNum cfg (encString cfg c len spl n).length <;>
          cases hL : fitsLen cfg (encString cfg c len spl n).length <;> simp [hzero, hW, hL, eq_comm (a := r)]

/-- ENC on this hardware is refused for an unwritten operand only. -/
theorem encResult_b32c_eq_error {c l sp : Bool} {s : State} {e : Refusal} (h : encResult b32c c l sp s = .error e) :
    ∃ r, e = .operandUnwritten r := by
  unfold encResult at h
  cases hspl : readSpl b32c sp s with
  | error e' =>
    rw [hspl] at h
    exact ⟨_, Except.error.inj h ▸ readOption_b32c_eq_error hspl⟩
  | ok spl =>
    by_cases hzero : spl = some 0
    · simp [hspl, hzero] at h
    cases hnum : readNum b32c s with
    | error e' =>
      simp only [hspl, hzero, hnum, if_false] at h
      rw [readNum, readNumber_b32c] at hnum
      exact ⟨_, Except.error.inj h ▸ readOperand_eq_error hnum⟩
    | ok n =>
      cases hlen : readLen b32c l s with
      | error e' =>
        simp [hspl, hzero, hnum, hlen] at h
        exact ⟨_, h ▸ readOption_b32c_eq_error hlen⟩
      | ok len => simp [hspl, hzero, hnum, hlen] at h

/-- A command reads its operands from the input string only, and answers for every input string. -/
def ReadsInput (i : Instr) : Prop := ∃ f : Str → Result, ∀ s, outcomeOf i s = (readIn b32c s).map f

theorem readsInput_dec (c : Bool) : ReadsInput (.dec c) := by
  choose g hg using decString_eq_ok c
  refine ⟨fun x => numOr .noResult (g x), fun s => ?_⟩
  cases h : readIn b32c s <;> simp [outcomeOf, decResult, h, hg, Except.map]

theorem readsInput_decx (c : Bool) : ReadsInput (.decx c) := by
  choose g hg using decString_eq_ok c
  refine ⟨fun x => numOr (.fault .malformedInput) (g x), fun s => ?_⟩
  cases h : readIn b32c s <;> simp [outcomeOf, decxResult, h, hg, Except.map]

theorem readsInput_norm (c : Bool) : ReadsInput (.norm c) := ⟨_, normResult_b32c c⟩

theorem readsInput_valid (c : Bool) : ReadsInput (.valid c) := ⟨_, validResult_b32c c⟩

end Sys2Proof.Machine
end

section
/-! PROOF. The outcomes of each command, what they depend on, and when a command is refused (spec/10_state.md R20, R26, R29,
spec/60_exceptions.md R93, spec/70_reset_and_hazards.md R109). -/

namespace Sys2Proof.Machine

/-- Everything DEC can answer: what the decoding of its input string gives (R81, R82). -/
theorem decResult_eq_ok_iff {cfg : Config} {c : Bool} {s : State} {r : Result} : decResult cfg c s = .ok r ↔
    ∃ x v, readIn cfg s = .ok x ∧ decString cfg c x = .ok v ∧ numOr .noResult v = r := by
  unfold decResult
  cases hin : readIn cfg s with
  | error e => simp
  | ok x => cases hdec : decString cfg c x <;> simp [hdec, Except.map]

/-- Everything DECX can answer (R84). -/
theorem decxResult_eq_ok_iff {cfg : Config} {c : Bool} {s : State} {r : Result} : decxResult cfg c s = .ok r ↔
    ∃ x v, readIn cfg s = .ok x ∧ decString cfg (c && cfg.decxForwardsChecksum) x = .ok v ∧
      numOr (.fault .malformedInput) v = r := by
  unfold decxResult
  cases hin : readIn cfg s with
  | error e => simp
  | ok x => cases hdec : decString cfg (c && cfg.decxForwardsChecksum) x <;> simp [hdec, Except.map]

/-- Everything NORM can answer (R87, R88). -/
theorem normResult_eq_ok_iff {cfg : Config} {c : Bool} {s : State} {r : Result} : normResult cfg c s = .ok r ↔
    ∃ x, readIn cfg s = .ok x ∧ symbolsFit cfg (inputBody c x) = true ∧ .str (normString cfg c x) = r := by
  unfold normResult
  cases hin : readIn cfg s with
  | error e => simp
  | ok x => cases hfit : symbolsFit cfg (inputBody c x) <;> simp [hfit]

/-- Everything VALID can answer (R90). -/
theorem validResult_eq_ok_iff {cfg : Config} {c : Bool} {s : State} {r : Result} : validResult cfg c s = .ok r ↔
    ∃ x, readIn cfg s = .ok x ∧ symbolsFit cfg (inputBody c x) = true ∧ .flag (validFlag (normString cfg c x)) = r := by
  unfold validResult
  cases hin : readIn cfg s with
  | error e => simp
  | ok x => cases hfit : symbolsFit cfg (inputBody c x) <;> simp [hfit]

/-- Settles O30: the next state is `finish` of the outcome, and each command has few kinds of outcome. -/
theorem commandOutcomesAndFrame : Obligations.CommandOutcomesAndFrame := by
  intro i s t h
  obtain ⟨r, hout, rfl⟩ := exec_next_iff.1 h
  have hshows := shows_finish s r
  refine ⟨sameOperands_finish s r, ?_⟩
  cases i with
  | enc c l sp =>
    rcases encResult_eq_ok_iff.1 hout with ⟨-, rfl⟩ | ⟨spl, n, len, -, -, -, -, -, -, rfl⟩
    · exact .inr hshows
    · exact .inl ⟨_, hshows⟩
  | dec c =>
    obtain ⟨-, v, -, -, rfl⟩ := decResult_eq_ok_iff.1 hout
    cases v with
    | some n => exact .inl ⟨n, hshows⟩
    | none => exact .inr hshows
  | decx c =>
    obtain ⟨-, v, -, -, rfl⟩ := decxResult_eq_ok_iff.1 hout
    cases v with
    | some n => exact .inl ⟨n, hshows⟩
    | none => exact .inr hshows
  | norm c =>
    obtain ⟨x, -, -, rfl⟩ := normResult_eq_ok_iff.1 hout
    exact ⟨_, hshows⟩
  | valid c =>
    obtain ⟨x, -, -, rfl⟩ := validResult_eq_ok_iff.1 hout
    exact ⟨_, hshows⟩

/-! ### Dependence on the operands -/

theorem encResult_congr (cfg : Config) (c : Bool) {l sp : Bool} {s u : State} (hnum : u.num = s.num)
    (hlen : l = true → u.len = s.len) (hspl : sp = true → u.spl = s.spl) : encResult cfg c l sp u = encResult cfg c l sp s := by
  have hsplit : readSpl cfg sp u = readSpl cfg sp s := readOption_congr cfg .spl hspl
  have hlength : readLen cfg l u = readLen cfg l s := readOption_congr cfg .len hlen
  unfold encResult
  rw [hsplit, hlength, readNum, readNum, hnum]

theorem ReadsInput.outcomeOf_congr {i : Instr} (h : ReadsInput i) {s u : State} (hilen : u.ilen = s.ilen)
    (hibuf : ∀ n, s.ilen = some n → ∀ j, j < n → u.ibuf.read j = s.ibuf.read j) : outcomeOf i u = outcomeOf i s := by
  obtain ⟨f, hf⟩ := h
  rw [hf, hf, readIn_congr b32c hilen hibuf]

/-- What `finish` leaves in STATUS and the result registers does not depend on the state. -/
theorem finish_results (s u : State) (r : Result) :
    (u.finish r).status = (s.finish r).status ∧ (u.finish r).val = (s.finish r).val ∧ (u.finish r).flg = (s.finish r).flg ∧
    (u.finish r).olen = (s.finish r).olen ∧ ∀ j : Nat, (u.finish r).obuf.read j = (s.finish r).obuf.read j := by
  cases r <;> exact ⟨rfl, rfl, rfl, rfl, fun _ => rfl⟩

/-- Commands with the same outcome leave the same results, or are refused alike. -/
theorem exec_alike {i : Instr} {s u : State} (h : outcomeOf i u = outcomeOf i s) :
    (∀ t, exec i s = .next t → ∃ t', exec i u = .next t' ∧ t'.status = t.status ∧ t'.val = t.val ∧ t'.flg = t.flg ∧
      t'.olen = t.olen ∧ ∀ j : Nat, t'.obuf.read j = t.obuf.read j) ∧
    (∀ e, exec i s = .refused e → exec i u = .refused e) := by
  refine ⟨fun t ht => ?_, fun e he => exec_refused_iff.2 (h.trans (exec_refused_iff.1 he))⟩
  obtain ⟨r, hout, rfl⟩ := exec_next_iff.1 ht
  exact ⟨u.finish r, exec_next_iff.2 ⟨r, h.trans hout, rfl⟩, finish_results s u r⟩

/-- Settles O32: the outcome is the same, command by command. -/
theorem outcomeDependsOnOperandsOnly : Obligations.OutcomeDependsOnOperandsOnly := by
  intro i s u hagree
  refine exec_alike ?_
  cases i with
  | enc c l sp =>
    obtain ⟨hnum, hlen, hspl⟩ := hagree
    exact encResult_congr b32c c hnum hlen hspl
  | dec c => exact (readsInput_dec c).outcomeOf_congr hagree.1 hagree.2
  | decx c => exact (readsInput_decx c).outcomeOf_congr hagree.1 hagree.2
  | norm c => exact (readsInput_norm c).outcomeOf_congr hagree.1 hagree.2
  | valid c => exact (readsInput_valid c).outcomeOf_congr hagree.1 hagree.2

/-! ### When a command has a meaning -/

theorem exec_not_next_iff {i : Instr} {s : State} : (¬∃ t, exec i s = .next t) ↔ ∃ e, outcomeOf i s = .error e := by
  rw [exec_eq_complete]
  cases outcomeOf i s <;> simp [complete]

/-- A string command answers exactly where an input string is written. -/
theorem ReadsInput.exec_next_iff {i : Instr} (h : ReadsInput i) {s : State} :
    (∃ t, exec i s = .next t) ↔ ∃ x, HoldsIn s x := by
  obtain ⟨f, hf⟩ := h
  simp only [exec_eq_complete, hf, ← readIn_eq_ok]
  cases readIn b32c s <;> simp [Except.map, complete]

theorem ReadsInput.exec_refused {i : Instr} (h : ReadsInput i) {s : State} (hno : ¬∃ t, exec i s = .next t) :
    ∃ r, exec i s = .refused (.operandUnwritten r) := by
  obtain ⟨f, hf⟩ := h
  obtain ⟨e, he⟩ := exec_not_next_iff.1 hno
  have hrefused := exec_refused_iff.2 he
  rw [hf] at he
  cases hin : readIn b32c s with
  | ok x => simp [hin, Except.map] at he
  | error e' =>
    obtain rfl : e' = e := by simpa [hin, Except.map] using he
    rcases readIn_eq_error hin with rfl | rfl
    · exact ⟨_, hrefused⟩
    · exact ⟨_, hrefused⟩

theorem eq_some_getD {v : Option Nat} (h : v ≠ none) : v = some (v.getD 0) := by
  cases v with
  | none => exact absurd rfl h
  | some n => rfl

/-- ENC answers where SPL = 0 decides, or where all it reads is written. -/
theorem exec_enc_next_iff {c l sp : Bool} {s : State} : (∃ t, exec (.enc c l sp) s = .next t) ↔
    (sp = true ∧ s.spl = some 0) ∨ (s.num ≠ none ∧ (l = true → s.len ≠ none) ∧ (sp = true → s.spl ≠ none)) := by
  constructor
  · rintro ⟨t, ht⟩
    obtain ⟨r, hout, -⟩ := exec_next_iff.1 ht
    rcases encResult_eq_ok_iff.1 hout with ⟨hspl, -⟩ | ⟨spl, n, len, hspl, -, hnum, hlen, -⟩
    · have hread := (readOption_eq_ok_iff.1 hspl).1
      cases sp with
      | false => cases hread
      | true => exact .inl ⟨rfl, hread.symm⟩
    · have hwritten := (readNumber_eq_ok_iff.1 hnum).1
      refine .inr ⟨by simp [hwritten], fun hl => ?_, fun hsp => ?_⟩
      · obtain ⟨m, hm, -⟩ := (readOption_eq_ok_iff.1 hlen).2 hl
        simp [hm]
      · obtain ⟨k, hk, -⟩ := (readOption_eq_ok_iff.1 hspl).2 hsp
        simp [hk]
  · intro h
    by_cases hzero : sp = true ∧ s.spl = some 0
    · obtain ⟨rfl, hspl⟩ := hzero
      exact ⟨_, exec_next_iff.2 ⟨_, encResult_of_split_zero c l hspl, rfl⟩⟩
    · obtain ⟨hnum, hlen, hspl⟩ := h.resolve_left hzero
      have hpos : ¬(sp = true ∧ s.spl.getD 0 = 0) := fun hno => hzero ⟨hno.1, hno.2 ▸ eq_some_getD (hspl hno.1)⟩
      exact ⟨_, exec_next_iff.2 ⟨_, encResult_of_written c (eq_some_getD hnum) (fun hl => eq_some_getD (hlen hl))
        (fun hsp => eq_some_getD (hspl hsp)) hpos, rfl⟩⟩

/-- Settles O33: ENC by its reads, the other commands by the one read of the input string. -/
theorem commandsRunWhenOperandsWritten : Obligations.CommandsRunWhenOperandsWritten := by
  intro i s
  cases i with
  | enc c l sp =>
    refine ⟨exec_enc_next_iff, fun hno => ?_⟩
    obtain ⟨e, he⟩ := exec_not_next_iff.1 hno
    obtain ⟨r, rfl⟩ := encResult_b32c_eq_error he
    exact ⟨r, exec_refused_iff.2 he⟩
  | dec c => exact ⟨(readsInput_dec c).exec_next_iff, (readsInput_dec c).exec_refused⟩
  | decx c => exact ⟨(readsInput_decx c).exec_next_iff, (readsInput_decx c).exec_refused⟩
  | norm c => exact ⟨(readsInput_norm c).exec_next_iff, (readsInput_norm c).exec_refused⟩
  | valid c => exact ⟨(readsInput_valid c).exec_next_iff, (readsInput_valid c).exec_refused⟩

end Sys2Proof.Machine
end

section
/-! PROOF. The invariant of the state, and reset (spec/10_state.md R20, R24, R28, spec/70_reset_and_hazards.md R106, R107). -/

namespace Sys2Proof.Machine

/-- Settles O36. -/
theorem resetMeetsInvariant : Obligations.ResetMeetsInvariant :=
  ⟨.nil, .nil, rfl, fun h => by simp at h, fun _ => ⟨rfl, rfl, rfl⟩⟩

theorem faultStatus_ne_ok (k : CmdFault) : faultStatus k ≠ .ok := by cases k <;> decide

/-- Ending a command establishes the invariant of OBUF, STATUS and the results from the canonical IBUF alone. -/
theorem stateInv_finish {s : State} (h : s.ibuf.wf) (r : Result) : StateInv (s.finish r) := by
  have hempty : Memory.wf [] := .nil
  cases r with
  | str x =>
    exact ⟨h, Memory.wf_writeString hempty 0 x, Memory.keys_writeString_empty x,
      fun _ => .inr (.inr ⟨rfl, rfl, Option.some_ne_none _⟩), fun hne => absurd rfl hne⟩
  | num n => exact ⟨h, hempty, rfl, fun _ => .inl ⟨Option.some_ne_none _, rfl, rfl⟩, fun hne => absurd rfl hne⟩
  | flag b => exact ⟨h, hempty, rfl, fun _ => .inr (.inl ⟨rfl, Option.some_ne_none _, rfl⟩), fun hne => absurd rfl hne⟩
  | noResult => exact ⟨h, hempty, rfl, nofun, fun _ => ⟨rfl, rfl, rfl⟩⟩
  | fault k => exact ⟨h, hempty, rfl, fun hok => absurd (Option.some.inj hok) (faultStatus_ne_ok k),
      fun _ => ⟨rfl, rfl, rfl⟩⟩

/-- A host action keeps the invariant: it writes an operand, ends a command, gives the host a datum, or resets. -/
theorem stateInv_of_perform {a : HostAction} {s t : State} (h : StateInv s) (hp : perform a s = .next t) : StateInv t := by
  obtain ⟨hibuf, hrest⟩ := h
  rcases perform_next hp with ⟨n, -, rfl⟩ | ⟨n, -, rfl⟩ | ⟨n, -, rfl⟩ | ⟨n, -, rfl⟩ | ⟨i, c, -, rfl⟩ | ⟨x, -, rfl⟩ |
    ⟨w, r, -, rfl⟩ | ⟨d, -, rfl⟩ | ⟨-, rfl⟩
  case inl | inr.inl | inr.inr.inl | inr.inr.inr.inl => exact ⟨hibuf, hrest⟩
  · exact ⟨Memory.wf_write hibuf i c, hrest⟩
  · exact ⟨Memory.wf_writeString hibuf 0 x, hrest⟩
  · exact stateInv_finish (s := s.setCmd w) hibuf r
  · exact ⟨hibuf, hrest⟩
  · exact resetMeetsInvariant

/-- Settles O35: a step is idle or one host action. -/
theorem stepKeepsInvariant : Obligations.StepKeepsInvariant := by
  intro s t h hstep
  rcases step_eq s with ⟨-, hidle⟩ | ⟨a, q, -, haction⟩
  · rw [hidle] at hstep
    cases hstep
    exact h
  · rw [haction] at hstep
    exact stateInv_of_perform (s := s.setPending q) h hstep

/-- After reset every command is refused for the operand it reads first. -/
theorem exec_reset (i : Instr) : ∃ r, exec i State.reset = .refused (.operandUnwritten r) := by
  cases i with
  | enc c l sp =>
    cases sp with
    | false => exact ⟨.num, rfl⟩
    | true => exact ⟨.spl, rfl⟩
  | dec c | decx c | norm c | valid c => exact ⟨.ilen, rfl⟩

/-- Settles O37: the fields of the reset state one by one, and the refusals they lead to. -/
theorem resetHoldsNoValue : Obligations.ResetHoldsNoValue :=
  ⟨rfl, rfl, rfl, rfl, rfl, rfl, rfl, rfl, rfl, rfl, fun _ => ⟨rfl, rfl⟩, fun r => by cases r <;> exact ⟨_, rfl⟩, exec_reset⟩

/-- Settles O38. -/
theorem resetActionResets : Obligations.ResetActionResets := fun _ _ hq => step_of_pending hq

end Sys2Proof.Machine
end

section
/-! PROOF. The host interface: its writes, WRS as cell writes, its reads, and RDS (spec/30_encoding.md R55, spec/10_state.md
R20, R24, spec/20_memory.md R31). -/

namespace Sys2Proof.Machine

/-- Settles O39: each write is one update of the state, and a cell reads as written (`Memory.read_write`). -/
theorem hostWrites : Obligations.HostWrites := by
  refine fun s q n i c => ⟨step_of_pending, step_of_pending, step_of_pending, step_of_pending, fun hq => ?_⟩
  refine ⟨Memory.write s.ibuf i c, by rw [step_of_pending hq]; rfl, fun j => ?_⟩
  simp [Memory.read_write, eq_comm]

theorem performAll_cons_of_next {a : HostAction} {s t : State} (rest : List HostAction) (h : perform a s = .next t) :
    performAll (a :: rest) s = performAll rest t := by
  simp [performAll, h]

/-- Cell writes in a row are one whole-string write of IBUF. -/
theorem performAll_wrCells (x : Str) (i : Nat) (rest : List HostAction) (s : State) :
    performAll (((x.zipIdx i).map fun p => HostAction.wrCell p.2 p.1) ++ rest) s =
      performAll rest (s.setIbuf (Memory.writeString s.ibuf i x)) := by
  induction x generalizing i s with
  | nil => rfl
  | cons c x ih =>
    have hcell : perform (.wrCell i c) s = .next (s.setIbuf (Memory.write s.ibuf i c)) := rfl
    rw [List.zipIdx_cons, List.map_cons, List.cons_append, performAll_cons_of_next _ hcell, ih]
    rfl

/-- The state after `WRS x`. -/
theorem perform_wrs (x : Str) (s : State) :
    perform (.wrs x) s = .next ((s.setIbuf (Memory.writeString s.ibuf 0 x)).setIlen x.length) := rfl

theorem holdsIn_wrs (x : Str) (s : State) : HoldsIn ((s.setIbuf (Memory.writeString s.ibuf 0 x)).setIlen x.length) x :=
  ⟨rfl, fun i hi => by simp [Memory.read_writeString, hi]⟩

/-- Settles O40: `performAll_wrCells` from index 0, and what the whole-string write leaves in each cell. -/
theorem wrsIsCellWrites : Obligations.WrsIsCellWrites := by
  refine fun s x => ⟨_, perform_wrs x s, performAll_wrCells x 0 _ s, holdsIn_wrs x s, fun j hj => ?_⟩
  have hout : ¬j < x.length := not_lt.2 hj
  simp [Memory.read_writeString, hout]

theorem hostDeliver_of_some {r : HostReg} {d : HostDatum} {o : Option HostDatum} (s : State) (h : o = some d) :
    hostDeliver r o s = .next (s.setRdata d) := by
  rw [h]
  rfl

theorem hostDeliver_of_none {r : HostReg} {o : Option HostDatum} (s : State) (h : o = none) :
    hostDeliver r o s = .refused (.noValue r) := by
  rw [h]
  rfl

theorem out_of_holdsOut {s : State} {x : Str} (h : HoldsOut s x) : s.out = some x := by
  obtain ⟨holen, hcells⟩ := h
  have hread : s.obuf.readString 0 x.length = some x :=
    (Memory.readString_eq_some _ _ _ _).2 ⟨rfl, fun j _ => by rw [Nat.zero_add, hcells]⟩
  simp [State.out, holen, hread]

theorem out_of_olen_none {s : State} (h : s.olen = none) : s.out = none := by simp [State.out, h]

theorem perform_rds_of_holdsOut {s : State} {x : Str} (h : HoldsOut s x) : perform .rds s = .next (s.setRdata (.str x)) :=
  hostDeliver_of_some s (by rw [out_of_holdsOut h, Option.map_some])

/-- Settles O42: the whole-string read answers exactly the cells below OLEN. -/
theorem rdsReadsWholeString : Obligations.RdsReadsWholeString := fun s q hq =>
  ⟨fun _ hx => (step_of_pending hq).trans (perform_rds_of_holdsOut (s := s.setPending q) hx),
    fun hno => (step_of_pending hq).trans
      (hostDeliver_of_none _ (by rw [out_of_olen_none (s := s.setPending q) hno, Option.map_none]))⟩

theorem perform_rd_status {s : State} {x : Status} (h : s.status = some x) :
    perform (.rd .status) s = .next (s.setRdata (.status x)) :=
  hostDeliver_of_some s (by rw [h, Option.map_some])

theorem perform_rd_val {s : State} {n : Nat} (h : s.val = some n) : perform (.rd .val) s = .next (s.setRdata (.num n)) :=
  hostDeliver_of_some s (by rw [h, Option.map_some])

theorem perform_rd_flg {s : State} {b : Bool} (h : s.flg = some b) : perform (.rd .flg) s = .next (s.setRdata (.bit b)) :=
  hostDeliver_of_some s (by rw [h, Option.map_some])

/-- R24: the cells below OLEN, and no cell at or above it. -/
theorem hostReadCell_of_holdsOut {s : State} {x : Str} (h : HoldsOut s x) (i : Nat) :
    (∀ c, x[i]? = some c → hostReadCell i s = .next (s.setRdata (.chr c))) ∧
    (x.length ≤ i → hostReadCell i s = .fault (.noSuchCell i)) := by
  obtain ⟨holen, hcells⟩ := h
  constructor
  · intro c hc
    simp [hostReadCell, holen, hcells, hc]
  · intro hi
    simp [hostReadCell, holen, hcells, hi]

/-- Settles O41: the reads of the registers through `hostDeliver`, those of the cells through `hostReadCell_of_holdsOut`. -/
theorem hostReads : Obligations.HostReads := by
  refine fun s q => ⟨fun hq => ?status, fun hq => ?val, fun hq => ?flg, fun hq => ?olen, fun hq => ?cmd, fun i hq => ?cell⟩ <;>
    rw [step_of_pending hq]
  case status =>
    exact ⟨fun _ hx => perform_rd_status (s := s.setPending q) hx, fun hno => hostDeliver_of_none _ (by simp [hno])⟩
  case val => exact ⟨fun _ hn => perform_rd_val (s := s.setPending q) hn, fun hno => hostDeliver_of_none _ (by simp [hno])⟩
  case flg => exact ⟨fun _ hb => perform_rd_flg (s := s.setPending q) hb, fun hno => hostDeliver_of_none _ (by simp [hno])⟩
  case olen => exact ⟨fun _ hn => hostDeliver_of_some _ (by simp [hn]), fun hno => hostDeliver_of_none _ (by simp [hno])⟩
  case cmd => rfl
  case cell =>
    exact ⟨fun hno => by simp [perform, hostReadCell, hno], fun x hx => hostReadCell_of_holdsOut (s := s.setPending q) hx i⟩

end Sys2Proof.Machine
end

section
/-! PROOF. The document's calls as host actions (spec/30_encoding.md R56). -/

namespace Sys2Proof.Machine

theorem perform_wrCmd_of_ends {i : Instr} {s : State} {r : Result} (h : Ends i (s.setCmd (encode i)) r) :
    ∃ t, perform (.wrCmd (encode i)) s = .next t ∧ Shows t r := by
  obtain ⟨t, hexec, hshows, -⟩ := h
  exact ⟨t, by simpa [perform, hostCommand] using hexec, hshows⟩

/-- `WRS` and a command write: the command finds the string as its input. -/
theorem performAll_wrs_wrCmd {i : Instr} {x : Str} {r : Result} (h : ∀ u, HoldsIn u x → Ends i u r) (s : State) :
    ∃ t, Shows t r ∧ ∀ rest, performAll (.wrs x :: .wrCmd (encode i) :: rest) s = performAll rest t := by
  have hin : HoldsIn (((s.setIbuf (Memory.writeString s.ibuf 0 x)).setIlen x.length).setCmd (encode i)) x := holdsIn_wrs x s
  obtain ⟨t, hcmd, hshows⟩ := perform_wrCmd_of_ends (h _ hin)
  exact ⟨t, hshows, fun rest => by
    rw [performAll_cons_of_next _ (perform_wrs x s), performAll_cons_of_next _ hcmd]⟩

/-- R56: where the command ends with a number, the host reads STATUS and then VAL. -/
theorem performThen_of_num {i : Instr} {x : Str} {n : Nat} (h : ∀ u, HoldsIn u x → Ends i u (.num n)) (s : State) :
    ∃ t, performThen [.wrs x, .wrCmd (encode i), .rd .status] readValIfOk s = .next t ∧ t.status = some .ok ∧
      t.rdata = some (.num n) := by
  obtain ⟨t, ⟨hstatus, hval, -⟩, hrun⟩ := performAll_wrs_wrCmd h s
  refine ⟨(t.setRdata (.status .ok)).setRdata (.num n), ?_, hstatus, rfl⟩
  rw [performThen, hrun, performAll_cons_of_next _ (perform_rd_status hstatus)]
  simp [performAll, readValIfOk, perform_rd_val (s := t.setRdata (.status .ok)) hval]

/-- R56: where the command ends with no number, the host reads STATUS and nothing more. -/
theorem performThen_of_status {i : Instr} {x : Str} {r : Result} {e : Status} (h : ∀ u, HoldsIn u x → Ends i u r)
    (hr : ∀ t, Shows t r → t.status = some e ∧ t.val = none) (he : e ≠ .ok) (s : State) :
    ∃ t, performThen [.wrs x, .wrCmd (encode i), .rd .status] readValIfOk s = .next t ∧ t.rdata = some (.status e) ∧
      t.val = none := by
  obtain ⟨t, hshows, hrun⟩ := performAll_wrs_wrCmd h s
  obtain ⟨hstatus, hval⟩ := hr t hshows
  refine ⟨t.setRdata (.status e), ?_, rfl, hval⟩
  rw [performThen, hrun, performAll_cons_of_next _ (perform_rd_status hstatus)]
  simp [performAll, readValIfOk, he]

theorem ite_isSome_some_getD (v : Option Nat) : (if v.isSome = true then some (v.getD 0) else none) = v := by
  cases v <;> rfl

/-- ENC of written operands, and `RDS`. -/
theorem performAll_enc_rds {u : State} {n : Nat} (c : Bool) (len spl : Option Nat) (hnum : u.num = some n)
    (hlen : len.isSome = true → u.len = some (len.getD 0))
    (hspl : spl.isSome = true → u.spl = some (spl.getD 0) ∧ 0 < spl.getD 0) :
    ∃ t, performAll [.wrCmd (encode (.enc c len.isSome spl.isSome)), .rds] u = .next t ∧
      t.rdata = some (.str (encString b32c c len spl n)) := by
  have hends := ends_enc (s := u.setCmd (encode (.enc c len.isSome spl.isSome))) c hnum hlen hspl
  rw [ite_isSome_some_getD, ite_isSome_some_getD] at hends
  obtain ⟨t, hcmd, -, hout, -⟩ := perform_wrCmd_of_ends hends
  refine ⟨t.setRdata (.str (encString b32c c len spl n)), ?_, rfl⟩
  rw [performAll_cons_of_next _ hcmd, performAll_cons_of_next _ (perform_rds_of_holdsOut hout)]
  rfl

/-- `encode(n, length, split, checksum)` writes the operands that are present and no other. -/
theorem performAll_callEncode (s : State) (c : Bool) (n : Nat) (len spl : Option Nat) (hspl : spl ≠ some 0) :
    ∃ t, performAll (callEncode n len spl c) s = .next t ∧ t.rdata = some (.str (encString b32c c len spl n)) := by
  cases spl with
  | none =>
    cases len with
    | none => exact performAll_enc_rds (u := s.setNum n) c none none rfl nofun nofun
    | some m => exact performAll_enc_rds (u := (s.setNum n).setLen m) c (some m) none rfl (fun _ => rfl) nofun
  | some k =>
    have hk : 0 < k := Nat.pos_of_ne_zero (by simpa using hspl)
    cases len with
    | none => exact performAll_enc_rds (u := (s.setNum n).setSpl k) c none (some k) rfl nofun fun _ => ⟨rfl, hk⟩
    | some m =>
      exact performAll_enc_rds (u := ((s.setNum n).setLen m).setSpl k) c (some m) (some k) rfl (fun _ => rfl) fun _ => ⟨rfl, hk⟩

/-- `decode(s)` and `decode!(s)` run the same decoding (R84). -/
theorem performDecode_both (s : State) (c : Bool) (x : Str) : ∃ t u, performDecode x c s = .next t ∧
    performDecodeOrFault x c s = .next u ∧
    ((∃ n, decString b32c c x = .ok (some n) ∧ t.status = some .ok ∧ t.rdata = some (.num n) ∧
        u.status = some .ok ∧ u.rdata = some (.num n)) ∨
      (decString b32c c x = .ok none ∧ t.rdata = some (.status .noResult) ∧ t.val = none ∧
        u.rdata = some (.status .malformedInput) ∧ u.val = none)) := by
  obtain ⟨r, hr⟩ := decString_eq_ok c x
  cases r with
  | some n =>
    obtain ⟨t, ht, htstatus, htdata⟩ := performThen_of_num (fun _ hu => (ends_num_of_decString hu hr).1) s
    obtain ⟨u, hu, hustatus, hudata⟩ := performThen_of_num (fun _ hu => (ends_num_of_decString hu hr).2) s
    exact ⟨t, u, ht, hu, .inl ⟨n, hr, htstatus, htdata, hustatus, hudata⟩⟩
  | none =>
    obtain ⟨t, ht, htdata, htval⟩ := performThen_of_status (fun _ hu => (ends_failed_of_decString hu hr).1)
      (fun _ h => ⟨h.1, h.2.1⟩) (e := .noResult) (by decide) s
    obtain ⟨u, hu, hudata, huval⟩ := performThen_of_status (fun _ hu => (ends_failed_of_decString hu hr).2)
      (fun _ h => ⟨h.1, h.2.1⟩) (e := .malformedInput) (by decide) s
    exact ⟨t, u, ht, hu, .inr ⟨hr, htdata, htval, hudata, huval⟩⟩

theorem performAll_callNormalize (s : State) (c : Bool) (x : Str) :
    ∃ t, performAll (callNormalize x c) s = .next t ∧ t.rdata = some (.str (normString b32c c x)) := by
  obtain ⟨t, ⟨-, hout, -⟩, hrun⟩ := performAll_wrs_wrCmd (fun _ hu => ends_norm c hu) s
  refine ⟨t.setRdata (.str (normString b32c c x)), ?_, rfl⟩
  rw [callNormalize, hrun, performAll_cons_of_next _ (perform_rds_of_holdsOut hout)]
  rfl

theorem performAll_callValid (s : State) (c : Bool) (x : Str) :
    ∃ t, performAll (callValid x c) s = .next t ∧ t.rdata = some (.bit (validFlag (normString b32c c x))) := by
  obtain ⟨t, ⟨-, hflg, -⟩, hrun⟩ := performAll_wrs_wrCmd (fun _ hu => ends_valid c hu) s
  refine ⟨t.setRdata (.bit (validFlag (normString b32c c x))), ?_, rfl⟩
  rw [callValid, hrun, performAll_cons_of_next _ (perform_rd_flg hflg)]
  rfl

/-- Settles O43, call by call; the unknown key is a reserved bit of the word, whatever the state. -/
theorem documentCallsReturnResults : Obligations.DocumentCallsReturnResults := fun s c x =>
  ⟨performAll_callEncode s c, fun _ => ⟨_, rfl, rfl⟩, performDecode_both s c x, performAll_callNormalize s c x,
    performAll_callValid s c x⟩

end Sys2Proof.Machine
end

section
/-! PROOF. Finite W and LMAX (spec/00_scope.md R8, spec/20_memory.md R40): a command answers what it answers with both
unbounded, or is refused where something does not fit. -/

namespace Sys2Proof.Machine

/-- The configuration with the same tables and no bound (R7). -/
def unbounded (cfg : Config) : Config := { cfg with width := none, lmax := none }

@[simp] theorem fitsNum_unbounded (cfg : Config) (n : Nat) : fitsNum (unbounded cfg) n = true := rfl

@[simp] theorem fitsLen_unbounded (cfg : Config) (n : Nat) : fitsLen (unbounded cfg) n = true := rfl

@[simp] theorem decm_unbounded (cfg : Config) : decm (unbounded cfg) = decm cfg := rfl

@[simp] theorem decc_unbounded (cfg : Config) : decc (unbounded cfg) = decc cfg := rfl

@[simp] theorem normString_unbounded (cfg : Config) : normString (unbounded cfg) = normString cfg := rfl

@[simp] theorem decxForwardsChecksum_unbounded (cfg : Config) :
    (unbounded cfg).decxForwardsChecksum = cfg.decxForwardsChecksum := rfl

@[simp] theorem allFit_unbounded (cfg : Config) (v : Option Nat) : v.all (fitsNum (unbounded cfg)) = true := by
  cases v <;> rfl

@[simp] theorem symbolsFit_unbounded (cfg : Config) (t : Str) : symbolsFit (unbounded cfg) t = true := by simp [symbolsFit]

/-- A command whose every answer is also the unbounded one is refused where the unbounded answer is not its own. -/
theorem refused_of_ne {bounded big : Except Refusal Result} {r : Result} (hkeep : ∀ r, bounded = .ok r → big = .ok r)
    (hbig : big = .ok r) (hne : bounded ≠ .ok r) : ∃ e, bounded = .error e := by
  cases bounded with
  | error e => exact ⟨e, rfl⟩
  | ok r' => exact absurd ((hkeep r' rfl).symm.trans hbig) hne

/-! ### ENC -/

theorem readNumber_unbounded_of_ok {cfg : Config} {r : Operand} {v : Option Nat} {n : Nat} (h : readNumber cfg r v = .ok n) :
    readNumber (unbounded cfg) r v = .ok n :=
  readNumber_eq_ok_iff.2 ⟨(readNumber_eq_ok_iff.1 h).1, rfl⟩

theorem readOption_unbounded_of_ok {cfg : Config} {present : Bool} {r : Operand} {v o : Option Nat}
    (h : readOption cfg present r v = .ok o) : readOption (unbounded cfg) present r v = .ok o := by
  obtain ⟨ho, hfit⟩ := readOption_eq_ok_iff.1 h
  exact readOption_eq_ok_iff.2 ⟨ho, fun hp => (hfit hp).imp fun _ hk => ⟨hk.1, rfl⟩⟩

theorem encResult_unbounded_of_ok {cfg : Config} {c l sp : Bool} {s : State} {r : Result} (h : encResult cfg c l sp s = .ok r) :
    encResult (unbounded cfg) c l sp s = .ok r := by
  rcases encResult_eq_ok_iff.1 h with ⟨hspl, hr⟩ | ⟨spl, n, len, hspl, hne, hnum, hlen, -, -, hr⟩
  · exact encResult_eq_ok_iff.2 (.inl ⟨readOption_unbounded_of_ok hspl, hr⟩)
  · exact encResult_eq_ok_iff.2 (.inr ⟨spl, n, len, readOption_unbounded_of_ok hspl, hne, readNumber_unbounded_of_ok hnum,
      readOption_unbounded_of_ok hlen, rfl, rfl, hr⟩)

/-- An option is read where its value fits. -/
theorem readOption_iff_unbounded {cfg : Config} {present : Bool} {r : Operand} {v o : Option Nat} :
    readOption cfg present r v = .ok o ↔ readOption (unbounded cfg) present r v = .ok o ∧
      ∀ k, present = true → v = some k → fitsNum cfg k = true := by
  rw [readOption_eq_ok_iff, readOption_eq_ok_iff]
  cases present with
  | false => simp
  | true => cases v <;> simp

theorem readNumber_iff_unbounded {cfg : Config} {r : Operand} {v : Option Nat} {n : Nat} :
    readNumber cfg r v = .ok n ↔ readNumber (unbounded cfg) r v = .ok n ∧ ∀ k, v = some k → fitsNum cfg k = true := by
  rw [readNumber_eq_ok_iff, readNumber_eq_ok_iff]
  cases v <;> simp +contextual

/-- ENC answers a string where it does so unbounded, and the operands it reads and the string fit. -/
theorem encResult_str_iff {cfg : Config} {c l sp : Bool} {s : State} {x : Str} : encResult cfg c l sp s = .ok (.str x) ↔
    encResult (unbounded cfg) c l sp s = .ok (.str x) ∧ fitsNum cfg x.length = true ∧ fitsLen cfg x.length = true ∧
      (∀ n, s.num = some n → fitsNum cfg n = true) ∧ (∀ m, l = true → s.len = some m → fitsNum cfg m = true) ∧
      (∀ k, sp = true → s.spl = some k → fitsNum cfg k = true) := by
  constructor
  · intro h
    refine ⟨encResult_unbounded_of_ok h, ?_⟩
    rcases encResult_eq_ok_iff.1 h with ⟨-, hr⟩ | ⟨spl, n, len, hspl, -, hnum, hlen, hW, hL, hr⟩
    · cases hr
    · cases hr
      exact ⟨hW, hL, (readNumber_iff_unbounded.1 hnum).2, (readOption_iff_unbounded.1 hlen).2,
        (readOption_iff_unbounded.1 hspl).2⟩
  · rintro ⟨h, hW, hL, hn, hm, hk⟩
    rcases encResult_eq_ok_iff.1 h with ⟨-, hr⟩ | ⟨spl, n, len, hspl, hne, hnum, hlen, -, -, hr⟩
    · cases hr
    · cases hr
      exact encResult_eq_ok_iff.2 (.inr ⟨spl, n, len, readOption_iff_unbounded.2 ⟨hspl, hk⟩, hne,
        readNumber_iff_unbounded.2 ⟨hnum, hn⟩, readOption_iff_unbounded.2 ⟨hlen, hm⟩, hW, hL, rfl⟩)

/-! ### The input string -/

theorem holdsIn_iff_readString {s : State} {n : Nat} {x : Str} (hilen : s.ilen = some n) :
    HoldsIn s x ↔ s.ibuf.readString 0 n = some x := by
  rw [Memory.readString_eq_some, HoldsIn, hilen, Option.some.injEq, eq_comm]
  refine and_congr_right ?_
  rintro rfl
  simp

/-- The read of IN for any bounds: the input string, where its length fits both (log entry 8). -/
theorem readIn_eq_ok_iff {cfg : Config} {s : State} {x : Str} : readIn cfg s = .ok x ↔
    HoldsIn s x ∧ fitsNum cfg x.length = true ∧ fitsLen cfg x.length = true := by
  unfold readIn
  cases hilen : readNumber cfg .ilen s.ilen with
  | error e =>
    simp only [reduceCtorEq, false_iff, not_and]
    intro hin hW
    have hread := readNumber_eq_ok_iff (r := .ilen).2 ⟨hin.1, hW⟩
    rw [hilen] at hread
    cases hread
  | ok n =>
    obtain ⟨hn, hW⟩ := readNumber_eq_ok_iff.1 hilen
    have hlength : HoldsIn s x → x.length = n := fun hin => Option.some.inj (hin.1.symm.trans hn)
    by_cases hL : fitsLen cfg n = true
    · have hfits : HoldsIn s x ↔ HoldsIn s x ∧ fitsNum cfg x.length = true ∧ fitsLen cfg x.length = true :=
        ⟨fun hin => ⟨hin, hlength hin ▸ hW, hlength hin ▸ hL⟩, And.left⟩
      rw [← hfits, holdsIn_iff_readString hn]
      simp only [hL, if_true]
      cases s.ibuf.readString 0 n <;> simp
    · simp only [hL, Bool.false_eq_true, if_false, reduceCtorEq, false_iff]
      rintro ⟨hin, -, hlen⟩
      exact hL (hlength hin ▸ hlen)

theorem readIn_unbounded_of_ok {cfg : Config} {s : State} {x : Str} (h : readIn cfg s = .ok x) :
    readIn (unbounded cfg) s = .ok x :=
  readIn_eq_ok_iff.2 ⟨(readIn_eq_ok_iff.1 h).1, rfl, rfl⟩

theorem readIn_eq_unbounded {cfg : Config} {s : State} {m : Nat} (hilen : s.ilen = some m) (hL : fitsLen cfg m = true)
    (hW : fitsNum cfg m = true) : readIn cfg s = readIn (unbounded cfg) s := by
  simp [readIn, readNumber, readOperand, hilen, hL, hW]

/-- An ILEN that does not fit is refused by every string command. -/
theorem refused_of_ilen {cfg : Config} (c : Bool) {s : State} {m : Nat} (hilen : s.ilen = some m)
    (h : fitsLen cfg m = false ∨ fitsNum cfg m = false) :
    (∃ e, decResult cfg c s = .error e) ∧ (∃ e, decxResult cfg c s = .error e) ∧
    (∃ e, normResult cfg c s = .error e) ∧ (∃ e, validResult cfg c s = .error e) := by
  cases hin : readIn cfg s with
  | error e => simp [decResult, decxResult, normResult, validResult, hin]
  | ok x =>
    obtain ⟨⟨hlength, -⟩, hW, hL⟩ := readIn_eq_ok_iff.1 hin
    obtain rfl := Option.some.inj (hlength.symm.trans hilen)
    simp [hW, hL] at h

/-! ### The decoding -/

theorem decLoop_unbounded_of_ok {cfg : Config} {t : Str} {acc : Nat} {v : Option Nat} (h : decLoop cfg acc t = .ok v) :
    decLoop (unbounded cfg) acc t = .ok v := by
  induction t generalizing acc with
  | nil => exact h
  | cons c t ih =>
    unfold decLoop at h ⊢
    rw [decm_unbounded]
    split at h
    · exact h
    · split at h
      · exact ih h
      · cases h

/-- A number the loop ends with is not below the one it started from. -/
theorem le_of_decLoop {cfg : Config} {t : Str} {acc n : Nat} (h : decLoop cfg acc t = .ok (some n)) : acc ≤ n := by
  induction t generalizing acc with
  | nil => exact (Option.some.inj (Except.ok.inj h)).le
  | cons c t ih =>
    unfold decLoop at h
    split at h
    · cases h
    · split at h
      · exact le_trans (by rw [radix]; omega) (ih h)
      · cases h

/-- The loop ends with a number where it does so unbounded and the number fits: those on the way to it are smaller. -/
theorem decLoop_some_iff {cfg : Config} {t : Str} {acc n : Nat} (hacc : fitsNum cfg acc = true) :
    decLoop cfg acc t = .ok (some n) ↔ decLoop (unbounded cfg) acc t = .ok (some n) ∧ fitsNum cfg n = true := by
  induction t generalizing acc with
  | nil =>
    simp only [decLoop, Except.ok.injEq, Option.some.injEq]
    exact ⟨fun h => ⟨h, h ▸ hacc⟩, And.left⟩
  | cons c t ih =>
    simp only [decLoop, decm_unbounded, fitsNum_unbounded, if_true]
    split
    next => simp
    next v _ =>
      by_cases hfit : fitsNum cfg (acc * radix + v) = true
      · rw [if_pos hfit, ih hfit]
      · rw [if_neg hfit]
        simp only [reduceCtorEq, false_iff, not_and]
        exact fun h hn => hfit (fitsNum_mono hn (le_of_decLoop h))

theorem fitsNum_zero (cfg : Config) : fitsNum cfg 0 = true := fitsNum_iff.2 fun _ _ => by positivity

theorem decBody_some_iff {cfg : Config} {body : Str} {n : Nat} : decBody cfg body = .ok (some n) ↔
    decBody (unbounded cfg) body = .ok (some n) ∧ fitsNum cfg n = true :=
  decLoop_some_iff (fitsNum_zero cfg)

theorem decString_unbounded_of_ok {cfg : Config} {c : Bool} {x : Str} {v : Option Nat} (h : decString cfg c x = .ok v) :
    decString (unbounded cfg) c x = .ok v := by
  cases c with
  | false => exact decLoop_unbounded_of_ok h
  | true =>
    rcases List.eq_nil_or_concat' x with rfl | ⟨body, k, rfl⟩
    · exact h
    rw [decString_checksum_append_eq] at h ⊢
    split at h
    · cases hbody : decBody cfg body with
      | error e => simp [hbody, Except.map] at h
      | ok r =>
        rw [hbody] at h
        rw [if_pos (allFit_unbounded cfg _), show decBody (unbounded cfg) body = .ok r from decLoop_unbounded_of_ok hbody]
        exact h
    · cases h

theorem checkSum_eq_some_iff {cfg : Config} {k : Chr} {m n : Nat} :
    checkSum cfg k m = some n ↔ m = n ∧ decc cfg k = some (mod37 n) := by
  unfold checkSum
  split
  next h =>
    rw [Option.some.injEq]
    exact ⟨fun heq => ⟨heq, heq ▸ h⟩, And.left⟩
  next h =>
    simp only [reduceCtorEq, false_iff, not_and]
    rintro rfl
    exact h

/-- R82: the value of a checksum character that matches fits where the number does. -/
theorem decString_checksum_some_iff {cfg : Config} {body : Str} {k : Chr} {n : Nat} :
    decString cfg true (body ++ [k]) = .ok (some n) ↔ decBody cfg body = .ok (some n) ∧ decc cfg k = some (mod37 n) := by
  rw [decString_checksum_append_eq]
  constructor
  · intro h
    split at h
    · cases hbody : decBody cfg body with
      | error e => simp [hbody, Except.map] at h
      | ok r =>
        have hsum : r.bind (checkSum cfg k) = some n := by simpa [hbody, Except.map] using h
        obtain ⟨m, hm, hmatch⟩ := Option.bind_eq_some_iff.1 hsum
        obtain ⟨rfl, hdecc⟩ := checkSum_eq_some_iff.1 hmatch
        exact ⟨congrArg _ hm, hdecc⟩
    · cases h
  · rintro ⟨hbody, hdecc⟩
    have hfit : fitsNum cfg (mod37 n) = true := fitsNum_mono (decBody_some_iff.1 hbody).2 (Nat.mod_le n 37)
    rw [if_pos (by rw [hdecc]; exact hfit), hbody]
    exact congrArg Except.ok (checkSum_of_match hdecc)

/-- The decoding gives a number where it does so unbounded and the number fits. -/
theorem decString_some_iff {cfg : Config} {c : Bool} {x : Str} {n : Nat} : decString cfg c x = .ok (some n) ↔
    decString (unbounded cfg) c x = .ok (some n) ∧ fitsNum cfg n = true := by
  cases c with
  | false => exact decBody_some_iff
  | true =>
    rcases List.eq_nil_or_concat' x with rfl | ⟨body, k, rfl⟩
    · simp
    · rw [decString_checksum_some_iff, decString_checksum_some_iff, decBody_some_iff, decc_unbounded, and_right_comm]

/-- Where 32^m fits, the numbers of the loop over m characters fit. -/
theorem TableLaws.decLoop_eq_unbounded {cfg : Config} (h : TableLaws cfg) {m : Nat} (hfit : fitsNum cfg (32 ^ m) = true)
    {t : Str} {acc : Nat} (hacc : (acc + 1) * 32 ^ t.length ≤ 32 ^ m) : decLoop cfg acc t = decLoop (unbounded cfg) acc t := by
  induction t generalizing acc with
  | nil => rfl
  | cons c t ih =>
    simp only [decLoop, decm_unbounded, fitsNum_unbounded, if_true]
    split
    next => rfl
    next v hv =>
      have hstep : acc * 32 + v + 1 ≤ (acc + 1) * 32 := by
        have hlt := h.decm_lt hv
        omega
      have hnext : (acc * 32 + v + 1) * 32 ^ t.length ≤ 32 ^ m := by
        refine (Nat.mul_le_mul_right _ hstep).trans (le_trans (le_of_eq ?_) hacc)
        rw [List.length_cons, pow_succ']
        ring
      have hle : acc * 32 + v ≤ 32 ^ m :=
        (Nat.le_succ _).trans ((Nat.le_mul_of_pos_right _ (by positivity)).trans hnext)
      rw [radix, if_pos (fitsNum_mono hfit hle), ih hnext]

theorem TableLaws.decBody_eq_unbounded {cfg : Config} (h : TableLaws cfg) {m : Nat} (hfit : fitsNum cfg (32 ^ m) = true)
    {body : Str} (hm : body.length ≤ m) : decBody cfg body = decBody (unbounded cfg) body := by
  refine h.decLoop_eq_unbounded hfit ?_
  have hclean := length_clean_add_count body
  rw [zero_add, one_mul]
  exact Nat.pow_le_pow_right (by decide) (by omega)

theorem TableLaws.decc_lt {cfg : Config} (h : TableLaws cfg) {c : Chr} {v : Nat} (hv : decc cfg c = some v) : v < 37 := by
  cases hm : decm cfg c with
  | some x =>
    obtain rfl := Option.some.inj ((decc_of_decm hm).symm.trans hv)
    exact (h.decm_lt hm).trans (by decide)
  | none =>
    rw [decc_of_decm_none hm] at hv
    obtain ⟨j, hj, rfl⟩ := Option.map_eq_some_iff.1 hv
    obtain ⟨hlt, -⟩ := List.idxOf?_eq_some_iff.1 hj
    rw [h.length_chksym] at hlt
    omega

/-- Where 36 and 32^m fit, no decoding of m characters is refused. -/
theorem TableLaws.decString_eq_unbounded {cfg : Config} (h : TableLaws cfg) (c : Bool) {x : Str} (hchk : fitsNum cfg 36 = true)
    (hfit : fitsNum cfg (32 ^ x.length) = true) : decString cfg c x = decString (unbounded cfg) c x := by
  cases c with
  | false => exact h.decBody_eq_unbounded hfit le_rfl
  | true =>
    rcases List.eq_nil_or_concat' x with rfl | ⟨body, k, rfl⟩
    · rfl
    have hvalue : (decc cfg k).all (fitsNum cfg) = true := by
      rw [Option.all_eq_true]
      exact fun v hv => fitsNum_mono hchk (Nat.le_of_lt_succ (h.decc_lt hv))
    rw [decString_checksum_append_eq, decString_checksum_append_eq, if_pos hvalue, if_pos (allFit_unbounded cfg _),
      h.decBody_eq_unbounded hfit (by simp)]
    rfl

/-! ### The string commands -/

theorem decResult_unbounded_of_ok {cfg : Config} {c : Bool} {s : State} {r : Result} (h : decResult cfg c s = .ok r) :
    decResult (unbounded cfg) c s = .ok r := by
  obtain ⟨x, v, hin, hdec, hr⟩ := decResult_eq_ok_iff.1 h
  exact decResult_eq_ok_iff.2 ⟨x, v, readIn_unbounded_of_ok hin, decString_unbounded_of_ok hdec, hr⟩

theorem decxResult_unbounded_of_ok {cfg : Config} {c : Bool} {s : State} {r : Result} (h : decxResult cfg c s = .ok r) :
    decxResult (unbounded cfg) c s = .ok r := by
  obtain ⟨x, v, hin, hdec, hr⟩ := decxResult_eq_ok_iff.1 h
  exact decxResult_eq_ok_iff.2 ⟨x, v, readIn_unbounded_of_ok hin, decString_unbounded_of_ok hdec, hr⟩

theorem normResult_unbounded_of_ok {cfg : Config} {c : Bool} {s : State} {r : Result} (h : normResult cfg c s = .ok r) :
    normResult (unbounded cfg) c s = .ok r := by
  obtain ⟨x, hin, -, hr⟩ := normResult_eq_ok_iff.1 h
  exact normResult_eq_ok_iff.2 ⟨x, readIn_unbounded_of_ok hin, symbolsFit_unbounded cfg _, hr⟩

theorem validResult_unbounded_of_ok {cfg : Config} {c : Bool} {s : State} {r : Result} (h : validResult cfg c s = .ok r) :
    validResult (unbounded cfg) c s = .ok r := by
  obtain ⟨x, hin, -, hr⟩ := validResult_eq_ok_iff.1 h
  exact validResult_eq_ok_iff.2 ⟨x, readIn_unbounded_of_ok hin, symbolsFit_unbounded cfg _, hr⟩

theorem numOr_eq_num_iff {failed : Result} (hfailed : ∀ n, failed ≠ .num n) {v : Option Nat} {n : Nat} :
    numOr failed v = .num n ↔ v = some n := by
  cases v with
  | none => simp [numOr, hfailed]
  | some m => simp [numOr]

/-- DEC ends with n where its input decodes to n. -/
theorem decResult_num_iff {cfg : Config} {c : Bool} {s : State} {n : Nat} :
    decResult cfg c s = .ok (.num n) ↔ ∃ x, readIn cfg s = .ok x ∧ decString cfg c x = .ok (some n) := by
  refine decResult_eq_ok_iff.trans ⟨?_, fun ⟨x, hin, hdec⟩ => ⟨x, some n, hin, hdec, rfl⟩⟩
  rintro ⟨x, v, hin, hdec, hr⟩
  exact ⟨x, hin, (numOr_eq_num_iff (by simp)).1 hr ▸ hdec⟩

theorem decxResult_num_iff {cfg : Config} {c : Bool} {s : State} {n : Nat} : decxResult cfg c s = .ok (.num n) ↔
    ∃ x, readIn cfg s = .ok x ∧ decString cfg (c && cfg.decxForwardsChecksum) x = .ok (some n) := by
  refine decxResult_eq_ok_iff.trans ⟨?_, fun ⟨x, hin, hdec⟩ => ⟨x, some n, hin, hdec, rfl⟩⟩
  rintro ⟨x, v, hin, hdec, hr⟩
  exact ⟨x, hin, (numOr_eq_num_iff (by simp)).1 hr ▸ hdec⟩

theorem fitsNum_of_decResult {cfg : Config} {c : Bool} {s : State} {n : Nat} (h : decResult cfg c s = .ok (.num n)) :
    fitsNum cfg n = true := by
  obtain ⟨x, -, hdec⟩ := decResult_num_iff.1 h
  exact (decString_some_iff.1 hdec).2

theorem fitsNum_of_decxResult {cfg : Config} {c : Bool} {s : State} {n : Nat} (h : decxResult cfg c s = .ok (.num n)) :
    fitsNum cfg n = true := by
  obtain ⟨x, -, hdec⟩ := decxResult_num_iff.1 h
  exact (decString_some_iff.1 hdec).2

section
variable {cfg : Config} {s : State} {m : Nat} (hilen : s.ilen = some m) (hL : fitsLen cfg m = true) (hW : fitsNum cfg m = true)
include hilen hL hW

theorem decResult_num_of_fits {c : Bool} {n : Nat} (hn : fitsNum cfg n = true)
    (h : decResult (unbounded cfg) c s = .ok (.num n)) : decResult cfg c s = .ok (.num n) := by
  obtain ⟨x, hin, hdec⟩ := decResult_num_iff.1 h
  exact decResult_num_iff.2 ⟨x, (readIn_eq_unbounded hilen hL hW).trans hin, decString_some_iff.2 ⟨hdec, hn⟩⟩

theorem decxResult_num_of_fits {c : Bool} {n : Nat} (hn : fitsNum cfg n = true)
    (h : decxResult (unbounded cfg) c s = .ok (.num n)) : decxResult cfg c s = .ok (.num n) := by
  obtain ⟨x, hin, hdec⟩ := decxResult_num_iff.1 h
  exact decxResult_num_iff.2 ⟨x, (readIn_eq_unbounded hilen hL hW).trans hin, decString_some_iff.2 ⟨hdec, hn⟩⟩

/-- The values NORM and VALID look up are at most 31. -/
theorem TableLaws.norm_valid_eq_unbounded (h : TableLaws cfg) (c : Bool) (hvalue : fitsNum cfg 31 = true) :
    normResult cfg c s = normResult (unbounded cfg) c s ∧ validResult cfg c s = validResult (unbounded cfg) c s := by
  have hfit (t : Str) : symbolsFit cfg t = true := by
    simp only [symbolsFit, List.all_eq_true, Option.all_eq_true]
    exact fun d _ v hv => fitsNum_mono hvalue (Nat.le_of_lt_succ (h.decm_lt hv))
  simp [normResult, validResult, readIn_eq_unbounded hilen hL hW, hfit]

theorem TableLaws.dec_decx_eq_unbounded (h : TableLaws cfg) (c : Bool) (hchk : fitsNum cfg 36 = true)
    (hfit : fitsNum cfg (32 ^ m) = true) :
    decResult cfg c s = decResult (unbounded cfg) c s ∧ decxResult cfg c s = decxResult (unbounded cfg) c s := by
  unfold decResult decxResult
  rw [readIn_eq_unbounded hilen hL hW, decxForwardsChecksum_unbounded]
  cases hin : readIn (unbounded cfg) s with
  | error e => exact ⟨rfl, rfl⟩
  | ok x =>
    obtain rfl := Option.some.inj ((readIn_eq_ok_iff.1 hin).1.1.symm.trans hilen)
    simp only [h.decString_eq_unbounded _ hchk hfit, and_self]

end

/-- Settles O56. With both unbounded is `unbounded`; each clause is what one command keeps or needs. -/
theorem finiteParametersRefuse : Obligations.FiniteParametersRefuse := by
  refine fun cfg c l sp s r => ⟨encResult_unbounded_of_ok, decResult_unbounded_of_ok, decxResult_unbounded_of_ok,
    normResult_unbounded_of_ok, validResult_unbounded_of_ok, fun x hx => ?enc,
    fun m hilen => ⟨refused_of_ilen c hilen, fun hL hW => ?fits⟩, fun n hn => ⟨fun h => ?dec, fun h => ?decx⟩⟩
  case enc =>
    have hrefused := refused_of_ne (fun _ => encResult_unbounded_of_ok (cfg := cfg)) hx
    refine ⟨fun hno => hrefused fun hok => ?_, fun n hn hno => hrefused fun hok => ?_, fun m hl hm hno => hrefused fun hok => ?_,
      fun k hsp hk hno => hrefused fun hok => ?_, fun n hn hfit hW hL hm hk => ?_⟩
    · obtain ⟨-, hW, hL, -⟩ := encResult_str_iff.1 hok
      simp [hW, hL] at hno
    · obtain ⟨-, -, -, hnum, -⟩ := encResult_str_iff.1 hok
      simp [hnum n hn] at hno
    · obtain ⟨-, -, -, -, hlen, -⟩ := encResult_str_iff.1 hok
      simp [hlen m hl hm] at hno
    · obtain ⟨-, -, -, -, -, hspl⟩ := encResult_str_iff.1 hok
      simp [hspl k hsp hk] at hno
    · exact encResult_str_iff.2 ⟨hx, hW, hL, fun n' hn' => Option.some.inj (hn.symm.trans hn') ▸ hfit, hm, hk⟩
  case fits =>
    exact ⟨fun n hn => ⟨decResult_num_of_fits hilen hL hW hn, decxResult_num_of_fits hilen hL hW hn⟩,
      fun hwf => (tableLaws_of_wellFormed hwf).norm_valid_eq_unbounded hilen hL hW c,
      fun hwf => (tableLaws_of_wellFormed hwf).dec_decx_eq_unbounded hilen hL hW c⟩
  case dec =>
    exact refused_of_ne (fun _ => decResult_unbounded_of_ok) h fun hok => by simp [fitsNum_of_decResult hok] at hn
  case decx =>
    exact refused_of_ne (fun _ => decxResult_unbounded_of_ok) h fun hok => by simp [fitsNum_of_decxResult hok] at hn

end Sys2Proof.Machine
end
